-- ==== Sys2Proof/Word.lean ====
section
/-! DEFINITION. The words of the block: bytes, register indices, timestamps, text (00_scope.md rule R8). -/

namespace Sys2Proof

/-- A Register Value, a frame byte, a UID byte or a checksum byte: 8 bits, unsigned (R5, R8). -/
abbrev Byte := BitVec 8

/-- A Register Address as the `ChipMap` holds it: 0x00..0x3F, 6 bits (R5, R40). -/
abbrev RegIx := BitVec 6

/-- A timestamp: a natural number of milliseconds (R8, decision D9). -/
abbrev Time := Nat

/-- A character string (a UID string, a device label), as its list of characters. -/
abbrev Text := List Char

/-- A register index widened to the byte an operand of `WR` or `RD` is. -/
def RegIx.toByte (a : RegIx) : Byte := a.setWidth 8

/-- The four UID bytes of a card answer, in the order received (R66). -/
structure Uid where
  b0 : Byte
  b1 : Byte
  b2 : Byte
  b3 : Byte
  deriving DecidableEq, Repr, Inhabited

end Sys2Proof
end

