-- ==== Sys2Proof/Config.lean ====
section
/-! DEFINITION. What an implementation fixes (the `ChipMap` of 00_scope.md rule R6 and the parameters of
rule R7) and the free values: the environment's answers, which nothing constrains. -/

namespace Sys2Proof

/-- The environment's answer to one `Xfer` (40_transport.md rule R80, 20_memory.md rule R55). -/
inductive Answer where
  /-- A bus-level failure (R84). -/
  | fail
  /-- The two received bytes: `r0` during the address byte, `r1` during the data byte. -/
  | ok (r0 r1 : Byte)
  deriving DecidableEq, Repr, Inhabited

/-- The chip's registers and codes by role (00_scope.md rule R6). -/
structure ChipMap where
  command      : RegIx
  comIrq       : RegIx
  error        : RegIx
  fifoData     : RegIx
  fifoLevel    : RegIx
  bitFraming   : RegIx
  txControl    : RegIx
  tMode        : RegIx
  version      : RegIx
  cmdIdle       : Byte
  cmdTransceive : Byte
  cmdSoftReset  : Byte
  irqClear     : Byte
  irqRx        : Byte
  irqTimer     : Byte
  fifoFlush    : Byte
  bfShort7     : Byte
  bfFull       : Byte
  bfStart      : Byte
  configWrites : List (RegIx × Byte)
  deriving DecidableEq, Repr

/-- The nine register addresses in the order of the table of R6. -/
def ChipMap.addresses (c : ChipMap) : List RegIx :=
  [c.command, c.comIrq, c.error, c.fifoData, c.fifoLevel, c.bitFraming, c.txControl, c.tMode, c.version]

/-- The eight single-bit masks of a byte. -/
def singleBits : List Byte := [0x01, 0x02, 0x04, 0x08, 0x10, 0x20, 0x40, 0x80]

/-- The constraints of R6 and decision D4: the nine addresses are pairwise distinct; `IRQ_RX` and
`IRQ_TIMER` are two different single bits; `BF_START` is a single bit. -/
def ChipMap.wf (c : ChipMap) : Bool :=
  decide c.addresses.Nodup && decide (c.irqRx ∈ singleBits) && decide (c.irqTimer ∈ singleBits)
    && decide (c.irqRx ≠ c.irqTimer) && decide (c.bfStart ∈ singleBits)

/-- The open parameters of the block (R6, R7), constant in a run. -/
structure Params where
  /-- The chip's register map (R6). -/
  chip : ChipMap
  /-- `DUMMY`: the data byte sent on a read (R7, D5). -/
  dummy : Byte
  /-- `DEVICE_LABEL`: the label of every event (R7, D28). -/
  label : Text
  /-- `TS_BITS`: `none` for timestamps that never wrap (R7, D9). -/
  tsBits : Option Nat
  /-- `ACQ_IDLE_AFTER`: whether `ACQUIRE` ends with an idle write (R7, D18). -/
  acqIdleAfter : Bool
  /-- The delay before a bring-up retry, used only while `INIT_RETRY` attempts are left (D24). -/
  retryDelay : Nat
  deriving DecidableEq, Repr

/-- Free value: the answer to the `n`-th `Xfer` that no scripted answer serves (R55; log 1). -/
opaque Config.freeAnswer : Nat → Answer

/-- Free value: how many ms beyond its lower bound the clock shows at the `n`-th `Now` that no scripted
advance serves (R175, R176; log 2). -/
opaque Config.freeTick : Nat → Nat

/-- The implementation's `DEVICE_LABEL`, which the spec gives no value (R7, D28; log 5). -/
opaque Config.deviceLabel : Text

end Sys2Proof
end

