-- ==== Sys2Proof/Machine/Consts.lean ====
section
/-! DEFINITION. The constants the source fixes (00_scope.md rule R5) and the spec's default parameters
(rules R6 and R7). -/

namespace Sys2Proof.Machine

/-- `REQA`, the wake command byte (R5). -/
def reqaByte : Byte := 0x26
/-- First byte of `ANTICOLL` (R5). -/
def anticollByte0 : Byte := 0x93
/-- Second byte of `ANTICOLL` (R5). -/
def anticollByte1 : Byte := 0x20
/-- `MIN_FIFO_LEVEL` (R5). -/
def minFifoLevel : Byte := 5
/-- `ERR_MASK` (R5). -/
def errMask : Byte := 0x13
/-- `SELFTEST_VALUE` (R5). -/
def selfTestValue : Byte := 0x8D
/-- `ANTENNA_MASK` (R5). -/
def antennaMask : Byte := 0x03
/-- `T_RST_LOW` in ms (R5, R177). -/
def tRstLow : Nat := 100
/-- `T_RST_SETTLE` in ms (R5, R177). -/
def tRstSettle : Nat := 50
/-- `T_SOFTRESET` in ms (R5, R177). -/
def tSoftReset : Nat := 50
/-- `T_DETECT_SETTLE` in ms (R5, R177). -/
def tDetectSettle : Nat := 25
/-- `T_ACQ_STEP` in ms (R5, R177). -/
def tAcqStep : Nat := 1
/-- `T_ACQ_TIMEOUT` in ms (R5, R177). -/
def tAcqTimeout : Nat := 100
/-- `T_POLL` in ms (R5, R177). -/
def tPoll : Nat := 500
/-- `T_DEDUP` in ms (R5, R177). -/
def tDedup : Nat := 5000

/-- The default `ChipMap` (R6, column "default"; 93_implementation_defined.md G1 to G3).
PRESUMED (log 3): the spec marks these values as general knowledge, not in the source. -/
def defaultChipMap : ChipMap where
  command := 0x01
  comIrq := 0x04
  error := 0x06
  fifoData := 0x09
  fifoLevel := 0x0A
  bitFraming := 0x0D
  txControl := 0x14
  tMode := 0x2A
  version := 0x37
  cmdIdle := 0x00
  cmdTransceive := 0x0C
  cmdSoftReset := 0x0F
  irqClear := 0x7F
  irqRx := 0x20
  irqTimer := 0x01
  fifoFlush := 0x80
  bfShort7 := 0x07
  bfFull := 0x00
  bfStart := 0x80
  configWrites :=
    [(0x2A, 0x8D), (0x2B, 0x3E), (0x2D, 0x1E), (0x2C, 0x00), (0x15, 0x40), (0x11, 0x3D)]

/-- The defaults of R7; the label is the opaque `Config.deviceLabel` (log 5). -/
def defaultParams : Params where
  chip := defaultChipMap
  dummy := 0x00
  label := Config.deviceLabel
  tsBits := none
  acqIdleAfter := false
  retryDelay := 0

end Sys2Proof.Machine
end

