-- ==== Sys2Proof/Syntax.lean ====
section
/-! DEFINITION. The operations of the block, one constructor per row of spec/opcode_table.json, and the
encoded form of an operation (30_encoding.md rules R60 to R75). -/

namespace Sys2Proof

/-- One operation of the block. Register operands are whole bytes, so that an index above 0x3F can be
written down and refused (20_memory.md rule R43); `Instr.wf` says which operands are legal. -/
inductive Instr where
  /-- `WR`: write `v` to register `a` (R82). -/
  | wr (a v : Byte)
  /-- `RD`: read register `a`, sending `d` as the dummy data byte (R83, R62). -/
  | rd (a d : Byte)
  /-- `REQA`: the 7-bit short card frame 0x26 (R64). -/
  | reqa
  /-- `ANTICOLL_CL1`: the full-byte card frame 0x93, 0x20 (R65). -/
  | anticollCl1
  /-- `UID_ANSWER`: the five-byte card answer, four UID bytes and the checksum byte (R66). -/
  | uidAnswer (u0 u1 u2 u3 c : Byte)
  /-- `DELAY`: wait at least `n` ms (R176). -/
  | delay (n : Nat)
  /-- `NOW`: sample the clock (R175). -/
  | now
  /-- `RSTLINE`: drive the reset line, `true` is high (R91). -/
  | rstline (l : Bool)
  /-- `BUSOPEN`: open the bus (R92). -/
  | busopen
  /-- `EMIT`: hand the Scan Event to the reporter (R150). -/
  | emit
  /-- `SETBITS`: read-modify-write of register `a` with mask `m` (R86). -/
  | setbits (a m : Byte)
  /-- `CLRIRQ`: clear the pending interrupt flags (R74). -/
  | clrirq
  /-- `FLUSH`: clear the FIFO (R74). -/
  | flush
  /-- `CMD`: write command code `c` (R74). -/
  | cmd (c : Byte)
  /-- `PUSH`: append `v` to the FIFO (R74). -/
  | push (v : Byte)
  /-- `POP`: take one byte from the FIFO (R74). -/
  | pop
  /-- `INIT`: the bring-up routine (R90). -/
  | init
  /-- `POLL`: one polling cycle (R140). -/
  | poll
  /-- `DETECT`: the REQA presence probe (R118). -/
  | detect
  /-- `ACQUIRE`: the level-1 UID acquisition (R129). -/
  | acquire
  deriving DecidableEq, Repr

/-- The encoding formats of spec/opcode_table.json. Codes of different formats overlap, so an encoded
operation carries its format (log 12). -/
inductive Format where
  /-- A two-byte bus frame (R60). -/
  | busFrame16
  /-- A 7-bit card frame, held in one byte (R64). -/
  | cardFrame7
  /-- A 16-bit card frame (R65). -/
  | cardFrame16
  /-- A 40-bit card answer (R66). -/
  | cardAnswer40
  /-- A sequencer primitive: its kind code of R75, then its operand bytes. -/
  | prim
  /-- A pseudo-operation: `SETBITS` by its code, the others by the bus frame they expand to (R74). -/
  | pseudo
  /-- A routine: its code of R75. -/
  | routine
  deriving DecidableEq, Repr

/-- An encoded operation: its format and its bytes, first byte first. -/
structure Op where
  fmt   : Format
  bytes : List Byte
  deriving DecidableEq, Repr

end Sys2Proof
end

