-- ==== Sys2Proof/WellFormed.lean ====
section
/-! DEFINITION. Which operands of an operation are legal. -/

namespace Sys2Proof

/-- A register index is legal up to 0x3F (00_scope.md rule R5 `REG_INDEX_MAX`, 20_memory.md rule R43). -/
def legalIndex (a : Byte) : Bool := decide (a ≤ 0x3F#8)

/-- Legal operands: register indices up to 0x3F (R43); a delay that fits its two operand bytes (log 27). -/
def Instr.wf : Instr → Bool
  | .wr a _ => legalIndex a
  | .rd a _ => legalIndex a
  | .reqa => true
  | .anticollCl1 => true
  | .uidAnswer _ _ _ _ _ => true
  | .delay n => decide (n < 65536)
  | .now => true
  | .rstline _ => true
  | .busopen => true
  | .emit => true
  | .setbits a _ => legalIndex a
  | .clrirq => true
  | .flush => true
  | .cmd _ => true
  | .push _ => true
  | .pop => true
  | .init => true
  | .poll => true
  | .detect => true
  | .acquire => true

end Sys2Proof
end

