-- ==== Sys2Proof/Decode.lean ====
section
/-! DEFINITION. The decoder of encoded operations, total on any bytes and rejecting by name, then the
encoder, then the decoder of a word as spec/opcode_table.json numbers it (30_encoding.md rules R60 to R75). -/

namespace Sys2Proof

/-- Why bytes are no operation. -/
inductive DecodeError where
  /-- The format has another length. That an encoded operation of another length is refused, a card answer
  of other than five bytes too, is the model's choice (log 28). -/
  | wrongLength
  /-- Bit 0 of the address byte is 1: an invalid frame (R71, D35). -/
  | zBitSet
  /-- A short card frame other than 0x26 (R71). -/
  | unknownShortFrame
  /-- A full-byte card frame other than 0x93, 0x20 (R71). -/
  | unknownFullFrame
  /-- A primitive kind code of R75 with no row, or `XFER` (0), which `WR` and `RD` stand for. -/
  | unknownPrimitive
  /-- The level operand of `RSTLINE` is neither 0 nor 1 (R91). -/
  | levelNotZeroOrOne
  /-- A bus frame that no pseudo-operation of R74 expands to. -/
  | notAPseudo
  /-- A routine code of R75 with no row. -/
  | unknownRoutine
  deriving DecidableEq, Repr

/-- `addr_byte(a, rw)` of R61: the index shifted left by one under mask 0x7E, bit 7 set for a read. -/
def addrByte (a : Byte) (read : Bool) : Byte :=
  ((a <<< 1) &&& 0x7E) ||| (if read then 0x80 else 0x00)

/-- The field `rw` of an address byte: bit 7 (R61). -/
def frameIsRead (b : Byte) : Bool := b.getLsbD 7

/-- The field `idx[5:0]` of an address byte: bits 6..1 (R61). -/
def frameIndex (b : Byte) : Byte := (b >>> 1) &&& 0x3F

/-- The field `z` of an address byte: bit 0 (R61). -/
def frameZ (b : Byte) : Bool := b.getLsbD 0

/-- Two operand bytes as a number, high byte first (log 27). -/
def operand16 (hi lo : Byte) : Nat := hi.toNat * 256 + lo.toNat

/-- The high operand byte of a number (log 27). -/
def operandHi (n : Nat) : Byte := BitVec.ofNat 8 (n / 256)

/-- The low operand byte of a number (log 27). -/
def operandLo (n : Nat) : Byte := BitVec.ofNat 8 n

/-- Primitive kind codes of R75. -/
def codeDelay : Byte := 1
def codeNow : Byte := 2
def codeRstline : Byte := 3
def codeBusopen : Byte := 4
def codeEmit : Byte := 5
def codeSetbits : Byte := 6

/-- Routine codes of R75. -/
def codeInit : Byte := 1
def codePoll : Byte := 2
def codeDetect : Byte := 3
def codeAcquire : Byte := 4

/-- A bus frame: bit 7 of the first byte is the direction (R60, R70). -/
def decodeBusFrame (b0 b1 : Byte) : Except DecodeError Instr :=
  if frameZ b0 then .error .zBitSet
  else if frameIsRead b0 then .ok (.rd (frameIndex b0) b1)
  else .ok (.wr (frameIndex b0) b1)

/-- A primitive: its kind code of R75, then its operand bytes (log 12). -/
def decodePrim : List Byte → Except DecodeError Instr
  | [] => .error .wrongLength
  | k :: rest =>
    if k = codeDelay then
      match rest with
      | [hi, lo] => .ok (.delay (operand16 hi lo))
      | _ => .error .wrongLength
    else if k = codeRstline then
      match rest with
      | [l] => if l = 0 then .ok (.rstline false) else if l = 1 then .ok (.rstline true)
          else .error .levelNotZeroOrOne
      | _ => .error .wrongLength
    else if k = codeNow then (if rest = [] then .ok .now else .error .wrongLength)
    else if k = codeBusopen then (if rest = [] then .ok .busopen else .error .wrongLength)
    else if k = codeEmit then (if rest = [] then .ok .emit else .error .wrongLength)
    else .error .unknownPrimitive

/-- The bus frame of a pseudo-operation, recognised by the register it names (R74). -/
def decodePseudoFrame (p : Params) (b0 b1 : Byte) : Except DecodeError Instr :=
  if frameZ b0 then .error .zBitSet
  else if frameIsRead b0 then
    if frameIndex b0 = p.chip.fifoData.toByte ∧ b1 = p.dummy then .ok .pop else .error .notAPseudo
  else if frameIndex b0 = p.chip.comIrq.toByte ∧ b1 = p.chip.irqClear then .ok .clrirq
  else if frameIndex b0 = p.chip.fifoLevel.toByte ∧ b1 = p.chip.fifoFlush then .ok .flush
  else if frameIndex b0 = p.chip.command.toByte then .ok (.cmd b1)
  else if frameIndex b0 = p.chip.fifoData.toByte then .ok (.push b1)
  else .error .notAPseudo

/-- `SETBITS`: its kind code of R75, the register index and the mask (R86, log 12). -/
def decodeSetbits (k a m : Byte) : Except DecodeError Instr :=
  if k ≠ codeSetbits then .error .unknownPrimitive
  else if legalIndex a then .ok (.setbits a m)
  else .error .notAPseudo

/-- A routine: its code of R75. -/
def decodeRoutine (k : Byte) : Except DecodeError Instr :=
  if k = codeInit then .ok .init
  else if k = codePoll then .ok .poll
  else if k = codeDetect then .ok .detect
  else if k = codeAcquire then .ok .acquire
  else .error .unknownRoutine

/-- The decoder: an operation from its format and bytes. An encoded card answer has exactly its five bytes
(R66); what the fill level says of a shorter or longer one is a matter of `ACQUIRE` (R125, R126; log 28). -/
def decode (p : Params) (op : Op) : Except DecodeError Instr :=
  match op.fmt with
  | .busFrame16 =>
    match op.bytes with
    | [b0, b1] => decodeBusFrame b0 b1
    | _ => .error .wrongLength
  | .cardFrame7 =>
    match op.bytes with
    | [b] => if b = Machine.reqaByte then .ok .reqa else .error .unknownShortFrame
    | _ => .error .wrongLength
  | .cardFrame16 =>
    match op.bytes with
    | [b0, b1] =>
      if b0 = Machine.anticollByte0 ∧ b1 = Machine.anticollByte1 then .ok .anticollCl1
      else .error .unknownFullFrame
    | _ => .error .wrongLength
  | .cardAnswer40 =>
    match op.bytes with
    | [u0, u1, u2, u3, c] => .ok (.uidAnswer u0 u1 u2 u3 c)
    | _ => .error .wrongLength
  | .prim => decodePrim op.bytes
  | .pseudo =>
    match op.bytes with
    | [b0, b1] => decodePseudoFrame p b0 b1
    | [k, a, m] => decodeSetbits k a m
    | _ => .error .wrongLength
  | .routine =>
    match op.bytes with
    | [k] => decodeRoutine k
    | _ => .error .wrongLength

/-- The encoder: the bytes of an operation, from the same tables of the spec. -/
def encode (p : Params) : Instr → Op
  | .wr a v => ⟨.busFrame16, [addrByte a false, v]⟩
  | .rd a d => ⟨.busFrame16, [addrByte a true, d]⟩
  | .reqa => ⟨.cardFrame7, [Machine.reqaByte]⟩
  | .anticollCl1 => ⟨.cardFrame16, [Machine.anticollByte0, Machine.anticollByte1]⟩
  | .uidAnswer u0 u1 u2 u3 c => ⟨.cardAnswer40, [u0, u1, u2, u3, c]⟩
  | .delay n => ⟨.prim, [codeDelay, operandHi n, operandLo n]⟩
  | .now => ⟨.prim, [codeNow]⟩
  | .rstline l => ⟨.prim, [codeRstline, if l then 1 else 0]⟩
  | .busopen => ⟨.prim, [codeBusopen]⟩
  | .emit => ⟨.prim, [codeEmit]⟩
  | .setbits a m => ⟨.pseudo, [codeSetbits, a, m]⟩
  | .clrirq => ⟨.pseudo, [addrByte p.chip.comIrq.toByte false, p.chip.irqClear]⟩
  | .flush => ⟨.pseudo, [addrByte p.chip.fifoLevel.toByte false, p.chip.fifoFlush]⟩
  | .cmd c => ⟨.pseudo, [addrByte p.chip.command.toByte false, c]⟩
  | .push v => ⟨.pseudo, [addrByte p.chip.fifoData.toByte false, v]⟩
  | .pop => ⟨.pseudo, [addrByte p.chip.fifoData.toByte true, p.dummy]⟩
  | .init => ⟨.routine, [codeInit]⟩
  | .poll => ⟨.routine, [codePoll]⟩
  | .detect => ⟨.routine, [codeDetect]⟩
  | .acquire => ⟨.routine, [codeAcquire]⟩

/-- Byte `k` of a number, byte 0 the least significant. -/
def byteOf (w k : Nat) : Byte := BitVec.ofNat 8 (w >>> (8 * k))

/-- A word of at most 8 bits as spec/opcode_table.json numbers it. The table's 3-bit codes stand for a
primitive and for a routine alike; without a format the primitive is meant (log 13). Operand bytes that
the table gives no bits are 0. -/
def tableByteOp (b : Byte) : Op :=
  if b = Machine.reqaByte then ⟨.cardFrame7, [b]⟩
  else if b = codeDelay then ⟨.prim, [b, 0, 0]⟩
  else if b = codeRstline then ⟨.prim, [b, 0]⟩
  else if b = codeSetbits then ⟨.pseudo, [b, 0, 0]⟩
  else ⟨.prim, [b]⟩

/-- The encoded operation of a table word, its first byte the most significant: bits 15:8 of a frame are
the first byte sent (R60). A frame with `z = 1` is no bus frame (R71) and is read as a card frame.
Widths that no row of the table has are read as the next wider format with zeros in front: up to 8 bits as
one byte, 9 to 16 as a frame, 17 to 40 as a card answer; more than 40 bits are refused (log 13). -/
def tableOp (nbits w : Nat) : Op :=
  if nbits ≤ 8 then tableByteOp (byteOf w 0)
  else if nbits ≤ 16 then
    if frameZ (byteOf w 1) then ⟨.cardFrame16, [byteOf w 1, byteOf w 0]⟩
    else ⟨.busFrame16, [byteOf w 1, byteOf w 0]⟩
  else if nbits ≤ 40 then
    ⟨.cardAnswer40, [byteOf w 4, byteOf w 3, byteOf w 2, byteOf w 1, byteOf w 0]⟩
  else ⟨.cardAnswer40, []⟩

/-- The operation the decoder reads from a table word, `none` where it refuses. -/
def decodeTableWord (nbits w : Nat) : Option Instr :=
  match decode Machine.defaultParams (tableOp nbits w) with
  | .ok i => some i
  | .error _ => none

end Sys2Proof
end

