-- ==== Sys2Proof/Machine/State.lean ====
section
/-! DEFINITION. The state of the block as plain data (10_state.md rules R10 to R23), its value at reset
(70_reset_and_hazards.md rule R191), and the reasons a step can stop. -/

namespace Sys2Proof.Machine

/-- The block's top-level mode (R11). -/
inductive Phase where
  | bringup
  | polling
  | halted
  deriving DecidableEq, Repr

/-- The routine part of the sequencer position (R12). -/
inductive Routine where
  | none
  | init
  | poll
  | detect
  | acquire
  deriving DecidableEq, Repr

/-- A sequencer position: the routine, the number of the step as its rule numbers it, and the place
inside a step that the rule splits by letters or by a loop, counted from 0 (R12; log 19). -/
structure Pos where
  routine : Routine
  num     : Nat
  sub     : Nat
  deriving DecidableEq, Repr

/-- The first component of the Presence State (R18). -/
inductive Presence where
  | absent
  | present
  deriving DecidableEq, Repr

/-- The result of `DETECT` (R14, R118). -/
inductive Det where
  | absent
  | present
  | busFault
  deriving DecidableEq, Repr

/-- The state of the `acquire_uid` state machine (R21). -/
inductive AcqState where
  | idle
  | sentRequest
  | received
  | timedOut
  | validating
  | valid
  | invalid
  deriving DecidableEq, Repr

/-- The error codes of R160, with `none` for code 0. -/
inductive ErrCode where
  | none
  | transportError
  | transportUnresponsive
  | chipNotDetected
  | frameError
  | shortFrame
  | checksumMismatch
  | timeout
  deriving DecidableEq, Repr

/-- An error with the info that the `raise` records (R160, R165). -/
inductive Err where
  /-- Raised by `WR` and `RD`; the address byte of the failed transaction. -/
  | transportError (tx0 : Byte)
  /-- Raised by `INIT` step 3c; the value read back. -/
  | transportUnresponsive (probe : Byte)
  /-- Raised by `INIT` step 5b; the version value. -/
  | chipNotDetected (ver : Byte)
  /-- Raised by `ACQUIRE` step 7; the error register's value. -/
  | frameError (err : Byte)
  /-- Raised by `ACQUIRE` step 8; the fill level. -/
  | shortFrame (lvl : Byte)
  /-- Raised by `ACQUIRE` step 10; the computed and the received checksum. -/
  | checksumMismatch (computed received : Byte)
  /-- Raised by `ACQUIRE` step 6. -/
  | timeout
  deriving DecidableEq, Repr

/-- One item of the trace (R23); a `raise` with its info is visible there too (R165; log 22). -/
inductive Event where
  | xfer (b0 b1 : Byte) (answer : Answer)
  | rst (level : Bool)
  | busOpened
  | delayed (n : Nat)
  | clock (t : Time)
  | emitted (uid label : Text) (t : Time)
  | raised (e : Err)
  deriving DecidableEq, Repr

/-- The registers that hold one card answer (R13). -/
structure AnswerRegs where
  uid     : Uid
  chkRx   : Byte
  chkCalc : Byte
  deriving DecidableEq, Repr

/-- The sample registers (R14). -/
structure Samples where
  probeS : Byte
  verS   : Byte
  txcS   : Byte
  irqS   : Byte
  errS   : Byte
  lvlS   : Byte
  acqT0  : Time
  nowS   : Time
  detS   : Det
  acqOk  : Bool
  deriving DecidableEq, Repr

/-- The transport registers (R15). -/
structure BusRegs where
  tx0 : Byte
  tx1 : Byte
  rx0 : Byte
  rx1 : Byte
  deriving DecidableEq, Repr

/-- The Presence State (R18 to R20); `lastUid` is a valid bit and four bytes (D40; log 24). -/
structure PresenceState where
  presence : Presence
  lastUid  : Option Uid
  lastTs   : Time
  deriving DecidableEq, Repr

/-- The environment's inputs as plain data, the MODEL's own fields (R55, R56, R175, R176; log 1, log 2).
Scripted answers and clock advances come first; when a script is used up, free values are drawn by a
counter. -/
structure Env where
  /-- The scripted answers to the coming `Xfer`s. -/
  answers     : List Answer
  /-- How many free answers have been drawn. -/
  freeAnswers : Nat
  /-- The scripted advances of the clock beyond its lower bound, one per coming `Now`. -/
  ticks       : List Nat
  /-- How many free advances have been drawn. -/
  freeTicks   : Nat
  /-- The least value that the clock may show at the next `Now`; none before the first `Now`, which no law
  bounds (R175, R176; log 2). -/
  clock       : Option Time
  deriving DecidableEq, Repr

/-- The state of the block (R10). -/
structure State where
  /-- `phase` (R11). -/
  phase       : Phase
  /-- `seq` (R12). -/
  seq         : Pos
  /-- The one-deep return link (R12). -/
  link        : Option Pos
  /-- `uid[0..3]`, `chk_rx`, `chk_calc` (R13). -/
  answer      : AnswerRegs
  /-- The sample registers (R14). -/
  samples     : Samples
  /-- `tx0`, `tx1`, `rx0`, `rx1` (R15). -/
  bus         : BusRegs
  /-- `bus_open` (R16). -/
  busOpen     : Bool
  /-- `rst_line`, `true` is high (R17). -/
  rstLine     : Bool
  /-- The Presence State (R18, R19, R20). -/
  pres        : PresenceState
  /-- `acq_state` (R21). -/
  acqState    : AcqState
  /-- `last_error` (R22). -/
  lastError   : ErrCode
  /-- `halt_cause` (R22). -/
  haltCause   : ErrCode
  /-- The trace, oldest item first (R23). -/
  trace       : List Event
  /-- Bring-up attempts left under `INIT_RETRY` (R7, D24; log 7). -/
  retriesLeft : Nat
  /-- The parameters (R6, R7). -/
  params      : Params
  /-- The environment's inputs (log 1, log 2). -/
  env         : Env
  /-- Encoded operations placed from outside, performed before the sequencer's own next step (log 11). -/
  ops         : List Op
  deriving DecidableEq, Repr

/-- Why the machine stops. -/
inductive Fault where
  /-- Raised by every operation and every step when `phase = HALTED`, in which the block performs no step
  for ever (R168). Safe: nothing follows. -/
  | halted
  /-- Raised by a step at a sequencer position that no step list has; no run reaches one (R12; log 23).
  Safe: nothing follows. -/
  | noSuchStep
  deriving DecidableEq, Repr

/-- Why an operation is given no meaning. -/
inductive Refusal where
  /-- An arm of `exec` without a meaning. Safe: nothing follows. -/
  | notModelled (mnemonic : String)
  /-- Raised by every operation that needs an `Xfer` while `bus_open = 0` (R81, D39). Safe. -/
  | busNotOpen
  /-- Raised by `WR`, `RD` and `SETBITS` for an index above 0x3F (R43, D35). Safe. -/
  | indexAbove3F
  /-- Raised by `INIT` outside `BRINGUP` (R90) and by `POLL` outside `POLLING` (R140). Safe. -/
  | wrongPhase
  /-- Raised by a step whose placed operation the decoder rejects (R71, D35). Safe. -/
  | undecodable (e : DecodeError)
  deriving DecidableEq, Repr

/-- The state after power-on (R190, R191). Elements that R191 leaves unspecified hold the value that
log 9 names; the environment starts with nothing scripted, so every answer is free, and with no `Now`
returned yet, so the value of the first one is any natural number (R175; log 2). -/
def State.reset : State where
  phase := .bringup
  seq := ⟨.init, 1, 0⟩
  link := none
  answer := { uid := ⟨0, 0, 0, 0⟩, chkRx := 0, chkCalc := 0 }
  samples :=
    { probeS := 0, verS := 0, txcS := 0, irqS := 0, errS := 0, lvlS := 0, acqT0 := 0, nowS := 0
      detS := .absent, acqOk := false }
  bus := { tx0 := 0, tx1 := 0, rx0 := 0, rx1 := 0 }
  busOpen := false
  rstLine := false
  pres := { presence := .absent, lastUid := none, lastTs := 0 }
  acqState := .idle
  lastError := .none
  haltCause := .none
  trace := []
  retriesLeft := 0
  params := defaultParams
  env := { answers := [], freeAnswers := 0, ticks := [], freeTicks := 0, clock := none }
  ops := []

end Sys2Proof.Machine
end

