-- ==== Sys2Proof/Machine/Operands.lean ====
section
/-! DEFINITION. Operand forms: where the value of a read or of a clock sample goes (10_state.md rule R14),
the UID string (30_encoding.md rule R68), timestamps, and the numeric codes of rule R75. -/

namespace Sys2Proof.Machine

/-- The register that a read's value goes to (R14, R126). -/
inductive Dest where
  | none
  | probeS
  | verS
  | txcS
  | irqS
  | errS
  | lvlS
  | uid0
  | uid1
  | uid2
  | uid3
  | chkRx
  deriving DecidableEq, Repr

/-- The register that a clock sample goes to (R14). -/
inductive TimeDest where
  | none
  | acqT0
  | nowS
  deriving DecidableEq, Repr

/-- The sample register a read names at a sequencer position: the column "written by" of R14 and step 9 of
`ACQUIRE` (R126). A read at any other position names none: its value stays in `rx1` (log 14). -/
def readDest (p : Pos) : Dest :=
  match p.routine, p.num, p.sub with
  | .init, 3, 1 => .probeS
  | .init, 5, 0 => .verS
  | .detect, 7, 0 => .irqS
  | .acquire, 6, 2 => .irqS
  | .acquire, 7, 0 => .errS
  | .acquire, 8, 0 => .lvlS
  | .acquire, 9, 0 => .uid0
  | .acquire, 9, 1 => .uid1
  | .acquire, 9, 2 => .uid2
  | .acquire, 9, 3 => .uid3
  | .acquire, 9, 4 => .chkRx
  | _, _, _ => .none

/-- The register a clock sample goes to at a sequencer position (R14; log 14). -/
def timeDest (p : Pos) : TimeDest :=
  match p.routine, p.num, p.sub with
  | .acquire, 6, 0 => .acqT0
  | .poll, 4, 0 => .nowS
  | _, _, _ => .none

/-- Write the value of a read into its register. -/
def setDest (d : Dest) (v : Byte) (s : State) : State :=
  match d with
  | .none => s
  | .probeS => { s with samples := { s.samples with probeS := v } }
  | .verS => { s with samples := { s.samples with verS := v } }
  | .txcS => { s with samples := { s.samples with txcS := v } }
  | .irqS => { s with samples := { s.samples with irqS := v } }
  | .errS => { s with samples := { s.samples with errS := v } }
  | .lvlS => { s with samples := { s.samples with lvlS := v } }
  | .uid0 => { s with answer := { s.answer with uid := { s.answer.uid with b0 := v } } }
  | .uid1 => { s with answer := { s.answer with uid := { s.answer.uid with b1 := v } } }
  | .uid2 => { s with answer := { s.answer with uid := { s.answer.uid with b2 := v } } }
  | .uid3 => { s with answer := { s.answer with uid := { s.answer.uid with b3 := v } } }
  | .chkRx => { s with answer := { s.answer with chkRx := v } }

/-- A clock value as a timestamp: itself, or modulo 2^n under `TS_BITS = n` (R7, D9; log 6). -/
def stamp (p : Params) (t : Time) : Time :=
  match p.tsBits with
  | .none => t
  | some n => t % 2 ^ n

/-- `t - t'`: natural-number subtraction, or modulo 2^n under `TS_BITS = n` (R76, D9; log 6). -/
def elapsed (p : Params) (t t' : Time) : Nat :=
  match p.tsBits with
  | .none => t - t'
  | some n => (t + 2 ^ n - t' % 2 ^ n) % 2 ^ n

/-- Write a clock sample into its register. `now_s` is a timestamp; `acq_t0` keeps the clock's value, so
that the deadline is computed from the monotonic clock (R122, R205; log 6, which also says that the trace
item of the sample is not wrapped). -/
def setTimeDest (d : TimeDest) (t : Time) (s : State) : State :=
  match d with
  | .none => s
  | .acqT0 => { s with samples := { s.samples with acqT0 := t } }
  | .nowS => { s with samples := { s.samples with nowS := stamp s.params t } }

/-- The hexadecimal digit of a number below 16: `0`..`9`, `A`..`F` (R68). -/
def hexDigit (n : Nat) : Char := Char.ofNat (if n < 10 then 48 + n else 55 + n)

/-- `hex2(b)`: the digit of `b[7:4]`, then that of `b[3:0]` (R68). -/
def hex2 (b : Byte) : Text := [hexDigit (b.toNat / 16), hexDigit (b.toNat % 16)]

/-- `uid_string`: the four bytes in the order received, colon separated (R68). -/
def uidString (u : Uid) : Text :=
  hex2 u.b0 ++ ':' :: (hex2 u.b1 ++ ':' :: (hex2 u.b2 ++ ':' :: hex2 u.b3))

/-- `checksum(U)`: the XOR of the four UID bytes (R130). -/
def checksum (u : Uid) : Byte := u.b0 ^^^ u.b1 ^^^ u.b2 ^^^ u.b3

/-- The code of an error (R160, R165). -/
def Err.code : Err → ErrCode
  | .transportError _ => .transportError
  | .transportUnresponsive _ => .transportUnresponsive
  | .chipNotDetected _ => .chipNotDetected
  | .frameError _ => .frameError
  | .shortFrame _ => .shortFrame
  | .checksumMismatch _ _ => .checksumMismatch
  | .timeout => .timeout

/-- Numeric codes of `phase` (R75). -/
def Phase.code : Phase → BitVec 2
  | .bringup => 0
  | .polling => 1
  | .halted => 2

/-- Numeric codes of `routine` (R75). -/
def Routine.code : Routine → BitVec 3
  | .none => 0
  | .init => 1
  | .poll => 2
  | .detect => 3
  | .acquire => 4

/-- Numeric codes of `presence` (R75). -/
def Presence.code : Presence → BitVec 1
  | .absent => 0
  | .present => 1

/-- Numeric codes of `acq_state` (R75). -/
def AcqState.code : AcqState → BitVec 3
  | .idle => 0
  | .sentRequest => 1
  | .received => 2
  | .timedOut => 3
  | .validating => 4
  | .valid => 5
  | .invalid => 6

/-- Numeric codes of `det_s` (R75). -/
def Det.code : Det → BitVec 2
  | .absent => 0
  | .present => 1
  | .busFault => 2

/-- Numeric error codes (R75, R160). -/
def ErrCode.code : ErrCode → BitVec 4
  | .none => 0
  | .transportError => 1
  | .transportUnresponsive => 2
  | .chipNotDetected => 3
  | .frameError => 4
  | .shortFrame => 5
  | .checksumMismatch => 6
  | .timeout => 7

end Sys2Proof.Machine
end

