-- ==== Sys2Proof/Machine/Flags.lean ====
section
/-! DEFINITION. Every test the block makes (30_encoding.md rule R76, 10_state.md rule R24). -/

namespace Sys2Proof.Machine

/-- A flag is set if and only if the masked byte is non-zero (R76). -/
def maskSet (v m : Byte) : Bool := decide (v &&& m ≠ 0)

/-- The receive-complete flag of the last sample of the interrupt register (R24, R116, R122). -/
def rxComplete (s : State) : Bool := maskSet s.samples.irqS s.params.chip.irqRx

/-- The timer-expired flag of the last sample of the interrupt register (R24, R122). -/
def timerExpired (s : State) : Bool := maskSet s.samples.irqS s.params.chip.irqTimer

/-- The error bits of the last sample of the error register, mask 0x13 (R24, R124). -/
def errorBits (s : State) : Bool := maskSet s.samples.errS errMask

/-- `lvl_s < 5`: all 8 bits, unsigned (R76, R125). -/
def levelShort (s : State) : Bool := decide (s.samples.lvlS < minFifoLevel)

/-- `probe_s != 0x8D`: all 8 bits (R76, R94). -/
def probeWrong (s : State) : Bool := decide (s.samples.probeS ≠ selfTestValue)

/-- `ver_s = 0x00 or ver_s = 0xFF` (R76, R96). -/
def versionAbsent (s : State) : Bool := decide (s.samples.verS = 0x00) || decide (s.samples.verS = 0xFF)

/-- `Now() - acq_t0 >= 100`, for the value `t` of that `Now()` (R76, R122). -/
def deadlineReached (t : Time) (s : State) : Bool := decide (tAcqTimeout ≤ t - s.samples.acqT0)

/-- The emission condition of R149: nothing reported yet, or another UID (equal bytes and equal strings
are the same, R148), or at least 5000 ms since the last report. -/
def emitDue (s : State) : Bool :=
  match s.pres.lastUid with
  | none => true
  | some u => decide (s.answer.uid ≠ u) || decide (tDedup ≤ elapsed s.params s.samples.nowS s.pres.lastTs)

/-- The three errors that end bring-up (R160 "fatal?", R168). -/
def fatalInInit : Err → Bool
  | .transportError _ => true
  | .transportUnresponsive _ => true
  | .chipNotDetected _ => true
  | .frameError _ => false
  | .shortFrame _ => false
  | .checksumMismatch _ _ => false
  | .timeout => false

/-- Whether an error is a `TransportError` (R160). -/
def isTransport : Err → Bool
  | .transportError _ => true
  | .transportUnresponsive _ => false
  | .chipNotDetected _ => false
  | .frameError _ => false
  | .shortFrame _ => false
  | .checksumMismatch _ _ => false
  | .timeout => false

end Sys2Proof.Machine
end

