-- ==== Sys2Proof/Machine/Ops.lean ====
section
/-! DEFINITION. The named operations: the sequencer's primitives (00_scope.md rule R9), raising an error
and its consequences (60_exceptions.md rules R166 to R170), and how an operation's result becomes a step's
outcome. -/

namespace Sys2Proof.Machine

/-- The result of a piece of a routine: it went on, it raised an error (already recorded in the state), or
the spec gives it no meaning. -/
inductive Res where
  | ok (s : State)
  | raised (e : Err) (s : State)
  | refused (r : Refusal)
  deriving DecidableEq, Repr

/-- Go on after a piece that completed; a raise or a refusal ends the whole (R166 (2)). -/
def Res.andThen (r : Res) (f : State → Res) : Res :=
  match r with
  | .ok s => f s
  | .raised e s => .raised e s
  | .refused q => .refused q

/-- Perform a step list in order (R12, R50 (a)). -/
def runSteps : List (State → Res) → State → Res
  | [], s => .ok s
  | f :: fs, s => (f s).andThen (runSteps fs)

/-- Add an item to the trace (R23). -/
def log (e : Event) (s : State) : State := { s with trace := s.trace ++ [e] }

/-- `seq <- p` (R8, R12). -/
def goto (p : Pos) (s : State) : State := { s with seq := p }

/-! ### The environment's answers -/

/-- The answer to the next `Xfer`: the next scripted one, else a free value (R55; log 1). -/
def nextAnswer (e : Env) : Answer :=
  match e.answers with
  | [] => Config.freeAnswer e.freeAnswers
  | a :: _ => a

/-- The environment after it has answered an `Xfer`. -/
def popAnswer (e : Env) : Env :=
  match e.answers with
  | [] => { e with freeAnswers := e.freeAnswers + 1 }
  | _ :: rest => { e with answers := rest }

/-- The lower bound of the next `Now`: 0, which is none, before the first one (R175, R176; log 2). -/
def clockFloor (e : Env) : Time := e.clock.getD 0

/-- The value of the next `Now`: its lower bound plus any advance (R175, R176; log 2). -/
def nextNow (e : Env) : Time :=
  match e.ticks with
  | [] => clockFloor e + Config.freeTick e.freeTicks
  | d :: _ => clockFloor e + d

/-- The environment after a `Now`: no later one shows less (R175). -/
def popNow (e : Env) : Env :=
  match e.ticks with
  | [] => { e with freeTicks := e.freeTicks + 1, clock := some (nextNow e) }
  | _ :: rest => { e with ticks := rest, clock := some (nextNow e) }

/-! ### Raising an error -/

/-- `raise E(info)`, its first effect: `last_error` holds the code and the info is in the trace
(R165, R166 (1)). -/
def raise (e : Err) (s : State) : Res :=
  .raised e (log (.raised e) { s with lastError := e.code })

/-! ### The primitives -/

/-- One bus transaction whose answer is `fail`: the received registers keep their values (R80). -/
def xferFailed (b0 b1 : Byte) (s : State) : State :=
  { s with
    bus := { s.bus with tx0 := b0, tx1 := b1 }
    env := popAnswer s.env
    trace := s.trace ++ [.xfer b0 b1 .fail] }

/-- One bus transaction whose answer is `ok(r0, r1)` (R80). -/
def xferDone (b0 b1 r0 r1 : Byte) (s : State) : State :=
  { s with
    bus := { tx0 := b0, tx1 := b1, rx0 := r0, rx1 := r1 }
    env := popAnswer s.env
    trace := s.trace ++ [.xfer b0 b1 (.ok r0 r1)] }

/-- `Xfer(b0, b1)` as `WR` and `RD` use it: refused with the bus closed (R81), `TransportError` with the
address byte as info on `fail` (R84, R165). -/
def xfer (b0 b1 : Byte) (s : State) : Res :=
  if s.busOpen then
    match nextAnswer s.env with
    | .fail => raise (.transportError b0) (xferFailed b0 b1 s)
    | .ok r0 r1 => .ok (xferDone b0 b1 r0 r1 s)
  else .refused .busNotOpen

/-- `WR(a, v)` (R82); an index above 0x3F is refused (R43). -/
def wr (a v : Byte) (s : State) : Res :=
  if legalIndex a then xfer (addrByte a false) v s else .refused .indexAbove3F

/-- `RD(a)` with data byte `d`: the value is the SECOND received byte (R83, R47). -/
def rdSending (d a : Byte) (dst : Dest) (s : State) : Res :=
  if legalIndex a then
    (xfer (addrByte a true) d s).andThen fun s => .ok (setDest dst s.bus.rx1 s)
  else .refused .indexAbove3F

/-- `RD(a)` as the routines perform it, with data byte `DUMMY` (R62, R83). -/
def rd (a : RegIx) (dst : Dest) (s : State) : Res := rdSending s.params.dummy a.toByte dst s

/-- `SetBits(a, m)`: a read into `txc_s`, then always a write of the value with the mask's bits set; no
write follows a failed read (R86). -/
def setBits (a m : Byte) (s : State) : Res :=
  (rdSending s.params.dummy a .txcS s).andThen fun s => wr a (s.samples.txcS ||| m) s

/-- `Delay(n)`: the lower bound of the next `Now` grows by `n` ms, if a `Now` has been returned; the law
binds to no other (R176; log 2). -/
def delay (n : Nat) (s : State) : State :=
  log (.delayed n) { s with env := { s.env with clock := s.env.clock.map (· + n) } }

/-- `Now()`: the clock value goes into the trace and into its register (R175). The trace item is the clock's
value itself also under `TS_BITS`, where `now_s` is that value modulo 2^n (log 6). -/
def now (dst : TimeDest) (s : State) : State :=
  setTimeDest dst (nextNow s.env) (log (.clock (nextNow s.env)) { s with env := popNow s.env })

/-- `RstLine(l)` (R91). -/
def rstLine (l : Bool) (s : State) : State := log (.rst l) { s with rstLine := l }

/-- `BusOpen()`: it cannot fail (R92, D39). -/
def busOpen (s : State) : State := log .busOpened { s with busOpen := true }

/-- `Emit(s, t)`: the record of the event port (R23, R69, R150). -/
def emit (s : State) : State :=
  log (.emitted (uidString s.answer.uid) s.params.label s.samples.nowS) s

/-! ### Consequences of a raise -/

/-- `INIT` gives up: the block halts (R168); that the return link is empty then is log 23. -/
def halt (e : Err) (s : State) : State :=
  { s with phase := .halted, haltCause := e.code, seq := ⟨.none, 0, 0⟩, link := none }

/-- `INIT` is run again from step 1a, after the implementer's delay (R7 `INIT_RETRY`, D24; log 7). `last_error`
keeps the failed attempt's code, also when a later attempt succeeds (R22 against R99, log 7); the return link
is empty (log 23). -/
def restartInit (s : State) : State :=
  delay s.params.retryDelay
    { s with retriesLeft := s.retriesLeft - 1, seq := ⟨.init, 1, 0⟩, link := none }

/-- The consequence of a raise in `INIT` (R168; D24 while attempts are left). -/
def abortInit (e : Err) (s : State) : State :=
  if s.retriesLeft = 0 then halt e s else restartInit s

/-- The consequence of a raise in `DETECT` (R118). -/
def abortDetect (s : State) : State := { s with samples := { s.samples with detS := .busFault } }

/-- The consequence of a raise in `ACQUIRE` (R129, R169). -/
def abortAcquire (s : State) : State := { s with samples := { s.samples with acqOk := false } }

/-- The last step of a subroutine: back to the return link (R12). That the link is empty from then on, and that
with an empty link there is no next step, is the model's choice (log 23). -/
def returnToCaller (s : State) : State :=
  match s.link with
  | some p => { s with seq := p, link := none }
  | none => { s with seq := ⟨.none, 0, 0⟩ }

/-- Whether the idle write of `ACQ_IDLE_AFTER` follows the end of `ACQUIRE` by error `e` (R7, D18). -/
def idleFollows (e : Err) (s : State) : Bool := s.params.acqIdleAfter && !isTransport e

/-- Taking a raise: the routine that `seq` names ends, and control goes to its caller with the failure
(R166 (3), R168, R169). An error that the routine cannot raise changes nothing more (log 14, log 16). -/
def takeRaise (e : Err) (s : State) : State :=
  match s.seq.routine with
  | .init => if fatalInInit e then abortInit e s else s
  | .detect => if isTransport e then returnToCaller (abortDetect s) else s
  | .acquire =>
    if idleFollows e s then goto ⟨.acquire, 11, 0⟩ (abortAcquire s)
    else returnToCaller (abortAcquire s)
  | .poll => s
  | .none => s

/-! ### From results to outcomes -/

/-- A result as a step's outcome; `after` moves the sequencer when the piece completed. -/
def outcome (r : Res) (after : State → State) : Host.Outcome State Fault Refusal :=
  match r with
  | .ok s => .next (after s)
  | .raised e s => .next (takeRaise e s)
  | .refused q => .refused q

/-- Perform an operation: in `HALTED` the block performs no step (R168). -/
def perform (f : State → Res) (s : State) : Host.Outcome State Fault Refusal :=
  if s.phase = .halted then .fault .halted else outcome (f s) id

end Sys2Proof.Machine
end

