-- ==== Sys2Proof/Machine/Bringup.lean ====
section
/-! DEFINITION. The Bring-Up Sequencer: the steps of `INIT` (41_bringup.md rules R90 to R102), the routine
made of them, and its meaning. -/

namespace Sys2Proof.Machine

/-- `INIT` 1a: drive the reset line low (R91). -/
def init1a (s : State) : Res := .ok (rstLine false s)
/-- `INIT` 1b: at least 100 ms (R91). -/
def init1b (s : State) : Res := .ok (delay tRstLow s)
/-- `INIT` 1c: drive the reset line high (R91). -/
def init1c (s : State) : Res := .ok (rstLine true s)
/-- `INIT` 1d: at least 50 ms (R91). -/
def init1d (s : State) : Res := .ok (delay tRstSettle s)
/-- `INIT` 2: open the bus (R92). -/
def init2 (s : State) : Res := .ok (busOpen s)
/-- `INIT` 3a: write the known value to the scratch register (R93). -/
def init3a (s : State) : Res := wr s.params.chip.tMode.toByte selfTestValue s
/-- `INIT` 3b: read it back into `probe_s` (R93). -/
def init3b (s : State) : Res := rd s.params.chip.tMode .probeS s
/-- `INIT` 3c: the compare (R94). -/
def init3c (s : State) : Res :=
  if probeWrong s then raise (.transportUnresponsive s.samples.probeS) s else .ok s
/-- `INIT` 4a: the soft reset command (R95). -/
def init4a (s : State) : Res := wr s.params.chip.command.toByte s.params.chip.cmdSoftReset s
/-- `INIT` 4b: about 50 ms (R95). -/
def init4b (s : State) : Res := .ok (delay tSoftReset s)
/-- `INIT` 5a: read the version register into `ver_s` (R96). -/
def init5a (s : State) : Res := rd s.params.chip.version .verS s
/-- `INIT` 5b: the version test (R96). -/
def init5b (s : State) : Res :=
  if versionAbsent s then raise (.chipNotDetected s.samples.verS) s else .ok s
/-- One configuration write of `INIT` 6a (R97). -/
def configWrite (w : RegIx × Byte) (s : State) : Res := wr w.1.toByte w.2 s
/-- The configuration writes of a list, in list order (R97). -/
def configWriteAll : List (RegIx × Byte) → State → Res
  | [], s => .ok s
  | w :: ws, s => (configWrite w s).andThen (configWriteAll ws)
/-- `INIT` 6a: the configuration (R97). -/
def init6a (s : State) : Res := configWriteAll s.params.chip.configWrites s
/-- `INIT` 6b: antenna on (R98). -/
def init6b (s : State) : Res := setBits s.params.chip.txControl.toByte antennaMask s
/-- `INIT` 7: bring-up has succeeded (R99). `last_error` is not written: it is 0 unless an earlier raise set it
(R22; log 7); the return link is empty (log 23). -/
def init7 (s : State) : Res := .ok { s with phase := .polling, seq := ⟨.poll, 1, 0⟩, link := none }

/-- The step list of `INIT` (R90). -/
def initSteps : List (State → Res) :=
  [init1a, init1b, init1c, init1d, init2, init3a, init3b, init3c, init4a, init4b, init5a, init5b,
    init6a, init6b, init7]

/-- `INIT` with `n` attempts left after the first: a raise ends the attempt at its step, then the block
halts or, while attempts are left, starts again (R100, R168; D24, log 7). -/
def initAttempts : Nat → State → Res
  | 0, s =>
    match runSteps initSteps s with
    | .raised e s => .ok (abortInit e s)
    | r => r
  | n + 1, s =>
    match runSteps initSteps s with
    | .raised e s => initAttempts n (abortInit e s)
    | r => r

/-- `INIT` (R90): it runs when `phase = BRINGUP` (log 18). Placed while `INIT` is in progress it runs from
its step 1a to its end, and the run in progress is dropped (log 11). -/
def initRun (s : State) : Res :=
  if s.phase = .bringup then initAttempts s.retriesLeft s else .refused .wrongPhase

/-- The meaning of `INIT`: the whole routine (R90, R12 big-step; log 20). -/
def execInit (s : State) : Host.Outcome State Fault Refusal := perform initRun s

end Sys2Proof.Machine
end

