-- ==== Sys2Proof/Machine/Anticollision.lean ====
section
/-! DEFINITION. The Anticollision Protocol Engine: the steps of `DETECT` and `ACQUIRE`
(42_anticollision.md rules R110 to R131), the routines made of them, and their meanings. -/

namespace Sys2Proof.Machine

/-! ### `DETECT` -/

/-- `DETECT` 1: clear the pending flags (R111). -/
def detect1 (s : State) : Res := wr s.params.chip.comIrq.toByte s.params.chip.irqClear s
/-- `DETECT` 2: framing for a 7-bit short frame (R112). -/
def detect2 (s : State) : Res := wr s.params.chip.bitFraming.toByte s.params.chip.bfShort7 s
/-- `DETECT` 3: 0x26 into the FIFO (R113). -/
def detect3 (s : State) : Res := wr s.params.chip.fifoData.toByte reqaByte s
/-- `DETECT` 4: transceive (R114). -/
def detect4 (s : State) : Res := wr s.params.chip.command.toByte s.params.chip.cmdTransceive s
/-- `DETECT` 5: start the transmission (R115). -/
def detect5 (s : State) : Res :=
  wr s.params.chip.bitFraming.toByte (s.params.chip.bfShort7 ||| s.params.chip.bfStart) s
/-- `DETECT` 6: the settle window (R116). -/
def detect6 (s : State) : Res := .ok (delay tDetectSettle s)
/-- `DETECT` 7: one read of the interrupt register into `irq_s` (R116). -/
def detect7 (s : State) : Res := rd s.params.chip.comIrq .irqS s
/-- `DETECT` 8: back to idle (R117). -/
def detect8 (s : State) : Res := wr s.params.chip.command.toByte s.params.chip.cmdIdle s
/-- `DETECT` 9: the result (R116). -/
def detect9 (s : State) : Res :=
  .ok { s with samples := { s.samples with detS := if rxComplete s then .present else .absent } }

/-- The step list of `DETECT` (R118). -/
def detectSteps : List (State → Res) :=
  [detect1, detect2, detect3, detect4, detect5, detect6, detect7, detect8, detect9]

/-- `DETECT` (R118): a raise gives `bus_fault`. -/
def detectRun (s : State) : Res :=
  match runSteps detectSteps s with
  | .raised _ s => .ok (abortDetect s)
  | r => r

/-- The meaning of `DETECT`: the whole routine (R118, R12 big-step; log 20). As a single operation it runs
in every phase but `HALTED` (log 18). -/
def execDetect (s : State) : Host.Outcome State Fault Refusal := perform detectRun s

/-! ### `ACQUIRE` -/

/-- `ACQUIRE` 0: entry (R119). -/
def acquire0 (s : State) : Res :=
  .ok { s with acqState := .idle, samples := { s.samples with acqOk := false } }
/-- `ACQUIRE` 1: clear the pending flags (R119). -/
def acquire1 (s : State) : Res := wr s.params.chip.comIrq.toByte s.params.chip.irqClear s
/-- `ACQUIRE` 2: clear the FIFO (R119). -/
def acquire2 (s : State) : Res := wr s.params.chip.fifoLevel.toByte s.params.chip.fifoFlush s
/-- `ACQUIRE` 3: framing for whole bytes (R120). -/
def acquire3 (s : State) : Res := wr s.params.chip.bitFraming.toByte s.params.chip.bfFull s
/-- `ACQUIRE` 4a: 0x93 into the FIFO (R120). -/
def acquire4a (s : State) : Res := wr s.params.chip.fifoData.toByte anticollByte0 s
/-- `ACQUIRE` 4b: 0x20 into the FIFO (R120). -/
def acquire4b (s : State) : Res := wr s.params.chip.fifoData.toByte anticollByte1 s
/-- `ACQUIRE` 5a: transceive (R121). -/
def acquire5a (s : State) : Res := wr s.params.chip.command.toByte s.params.chip.cmdTransceive s
/-- `ACQUIRE` 5b: start the transmission; the request is sent (R121). -/
def acquire5b (s : State) : Res :=
  (wr s.params.chip.bitFraming.toByte (s.params.chip.bfFull ||| s.params.chip.bfStart) s).andThen
    fun s => .ok { s with acqState := .sentRequest }
/-- `ACQUIRE` 6, entry: the time the poll loop starts (R122). -/
def acquire6Entry (s : State) : Res := .ok (now .acqT0 s)

/-- The failure of the poll loop: `TIMED_OUT`, `ProtocolError.Timeout` (R123). -/
def acquireTimeout (s : State) : Res := raise .timeout { s with acqState := .timedOut }

/-- `ACQUIRE` 6, the deadline test that starts an iteration (R122, R123 (c)). It comes before the first read
too, so under a clock that has advanced 100 ms since `acq_t0` no read is performed (log 29). -/
def acquire6Deadline (s : State) : Res :=
  if deadlineReached (nextNow s.env) s then acquireTimeout (now .none s) else .ok (now .none s)

/-- The tests on one sample of the interrupt register: receive-complete wins over timer-expired
(R122, R123 (a), (b), R167 (b)). -/
def irqGate (s : State) : Res :=
  if rxComplete s then .ok { s with acqState := .received }
  else if timerExpired s then acquireTimeout s
  else .ok s

/-- `ACQUIRE` 6, the sample of an iteration: one read of the interrupt register and its tests (R122). -/
def acquire6Sample (s : State) : Res := (rd s.params.chip.comIrq .irqS s).andThen irqGate

/-- `ACQUIRE` 6, the end of an iteration: about 1 ms (R122). -/
def acquire6Wait (s : State) : State := delay tAcqStep s

/-- `ACQUIRE` 6, the poll loop (R122), with at most `n` iterations. The deadline ends it within 101, since
every iteration lasts at least 1 ms, so running out of `n` is never what ends it (R205; log 20). -/
def acquireLoop : Nat → State → Res
  | 0, s => acquireTimeout s
  | n + 1, s =>
    (acquire6Deadline s).andThen fun s =>
      (acquire6Sample s).andThen fun s =>
        if rxComplete s then .ok s else acquireLoop n (acquire6Wait s)

/-- Enough iterations for the poll loop: one for each ms before the deadline and one more. -/
def acquireLaps : Nat := 101

/-- The test on the error register (R124). -/
def errorGate (s : State) : Res :=
  if errorBits s then raise (.frameError s.samples.errS) { s with acqState := .invalid } else .ok s

/-- `ACQUIRE` 7: the error register (R124). -/
def acquire7 (s : State) : Res :=
  (rd s.params.chip.error .errS { s with acqState := .validating }).andThen errorGate

/-- The test on the fill level (R125). -/
def levelGate (s : State) : Res :=
  if levelShort s then raise (.shortFrame s.samples.lvlS) { s with acqState := .invalid } else .ok s

/-- `ACQUIRE` 8: the fill level (R125). -/
def acquire8 (s : State) : Res := (rd s.params.chip.fifoLevel .lvlS s).andThen levelGate

/-- `ACQUIRE` 9, the five reads that drain the answer (R126). -/
def acquire9a (s : State) : Res := rd s.params.chip.fifoData .uid0 s
def acquire9b (s : State) : Res := rd s.params.chip.fifoData .uid1 s
def acquire9c (s : State) : Res := rd s.params.chip.fifoData .uid2 s
def acquire9d (s : State) : Res := rd s.params.chip.fifoData .uid3 s
def acquire9e (s : State) : Res := rd s.params.chip.fifoData .chkRx s

/-- `ACQUIRE` 10: the integrity gate (R127). -/
def acquire10 (s : State) : Res :=
  let s1 := { s with answer := { s.answer with chkCalc := checksum s.answer.uid } }
  if s1.answer.chkCalc ≠ s1.answer.chkRx then
    raise (.checksumMismatch s1.answer.chkCalc s1.answer.chkRx) { s1 with acqState := .invalid }
  else .ok { s1 with acqState := .valid, samples := { s1.samples with acqOk := true } }

/-- `ACQUIRE` 11, only under `ACQ_IDLE_AFTER`: the idle write (R7, D18; log 8). -/
def acquire11 (s : State) : Res := wr s.params.chip.command.toByte s.params.chip.cmdIdle s

/-- The steps of `ACQUIRE` before the poll loop (R119 to R122). -/
def acquireHead : List (State → Res) :=
  [acquire0, acquire1, acquire2, acquire3, acquire4a, acquire4b, acquire5a, acquire5b, acquire6Entry]

/-- The steps of `ACQUIRE` after the poll loop (R124 to R127). -/
def acquireTail : List (State → Res) :=
  [acquire7, acquire8, acquire9a, acquire9b, acquire9c, acquire9d, acquire9e, acquire10]

/-- The step list of `ACQUIRE` (R129), up to its first raise. -/
def acquireBody (s : State) : Res :=
  (runSteps acquireHead s).andThen fun s =>
    (acquireLoop acquireLaps s).andThen (runSteps acquireTail)

/-- The idle write of `ACQ_IDLE_AFTER`; its own failure is a `TransportError` of `ACQUIRE` (log 8). -/
def acquireIdle (s : State) : Res :=
  match acquire11 s with
  | .raised _ s => .ok (abortAcquire s)
  | r => r

/-- `ACQUIRE` (R129): any raise gives `acq_ok = 0`. -/
def acquireRun (s : State) : Res :=
  match acquireBody s with
  | .ok s => if s.params.acqIdleAfter then acquireIdle s else .ok s
  | .raised e s => if idleFollows e s then acquireIdle (abortAcquire s) else .ok (abortAcquire s)
  | .refused q => .refused q

/-- The meaning of `ACQUIRE`: the whole routine (R129, R12 big-step; log 20). As a single operation it runs
in every phase but `HALTED` (log 18). -/
def execAcquire (s : State) : Host.Outcome State Fault Refusal := perform acquireRun s

end Sys2Proof.Machine
end

