-- ==== Sys2Proof/Machine/CardFrames.lean ====
section
/-! DEFINITION. The meanings of the card frames: what the block encodes into the FIFO and what it decodes
from a card answer (30_encoding.md rules R64 to R66). -/

namespace Sys2Proof.Machine

/-- `REQA`: `WR(A_BITFRAMING, BF_SHORT7)`, `WR(A_FIFODATA, 0x26)` (R64; log 15). -/
def execReqa (s : State) : Host.Outcome State Fault Refusal :=
  perform (runSteps [detect2, detect3]) s

/-- `ANTICOLL_CL1`: `WR(A_BITFRAMING, BF_FULL)`, `WR(A_FIFODATA, 0x93)`, `WR(A_FIFODATA, 0x20)`
(R65; log 15). -/
def execAnticollCl1 (s : State) : Host.Outcome State Fault Refusal :=
  perform (runSteps [acquire3, acquire4a, acquire4b]) s

/-- The five bytes of a card answer into `uid[0..3]` and `chk_rx` (R66). -/
def loadAnswer (u0 u1 u2 u3 c : Byte) (s : State) : State :=
  { s with
    answer := { s.answer with uid := ⟨u0, u1, u2, u3⟩, chkRx := c }
    samples := { s.samples with acqOk := false } }

/-- `UID_ANSWER`: the registers of R66, then the integrity gate of R127 (log 16). Its five bytes are operands
and no transaction, so it runs in every phase but `HALTED` and with the bus closed too (log 16). -/
def execUidAnswer (u0 u1 u2 u3 c : Byte) (s : State) : Host.Outcome State Fault Refusal :=
  perform (fun s => acquire10 (loadAnswer u0 u1 u2 u3 c s)) s

end Sys2Proof.Machine
end

