-- ==== Sys2Proof/Machine/PresenceDebounce.lean ====
section
/-! DEFINITION. The Presence and Debounce State Machine: the steps of `POLL` (43_presence_debounce.md rules
R140 to R157), the routine made of them, and its meaning. -/

namespace Sys2Proof.Machine

/-- Falling edge: `presence <- ABSENT`, the stored UID and timestamp kept (R152). -/
def pollFall (s : State) : State := { s with pres := { s.pres with presence := .absent } }

/-- `POLL` 4: the one time sample of the cycle (R147). -/
def poll4 (s : State) : State := now .nowS s

/-- `POLL` 6: `Emit(s, now_s)`, then the stored UID and timestamp (R150). -/
def poll6 (s : State) : State :=
  let s1 := emit s
  { s1 with pres := { s1.pres with lastUid := some s1.answer.uid, lastTs := s1.samples.nowS } }

/-- `POLL` 7: `presence <- PRESENT` (R144). -/
def poll7 (s : State) : State := { s with pres := { s.pres with presence := .present } }

/-- `POLL` 8: the delay, then the next cycle (R154). -/
def poll8 (s : State) : State := goto ⟨.poll, 1, 0⟩ (delay tPoll s)

/-- `POLL` 4 to 6: sample, compare, emit if due (R146 to R150). -/
def pollReport (s : State) : State :=
  let s1 := poll4 s
  if emitDue s1 then poll6 s1 else s1

/-- `POLL` 3 to 7: a rising edge (R143 to R151). -/
def pollRise (s : State) : Res :=
  (acquireRun s).andThen fun s => .ok (poll7 (if s.samples.acqOk then pollReport s else s))

/-- `POLL` 2: the dispatch on the edge (R142). -/
def pollEdge (s : State) : Res :=
  match s.samples.detS, s.pres.presence with
  | .busFault, _ => .ok s
  | .absent, .present => .ok (pollFall s)
  | .absent, .absent => .ok s
  | .present, .present => .ok s
  | .present, .absent => pollRise s

/-- `POLL` (R140): it runs when `phase = POLLING` (log 18). The return link is used by the
calls of the cycle and empty after them (log 23). Placed while another routine is in progress it ends at (POLL, 1) all the same, and that
routine is dropped (log 11). -/
def pollRun (s : State) : Res :=
  if s.phase = .polling then
    (detectRun s).andThen fun s => (pollEdge s).andThen fun s => .ok { poll8 s with link := none }
  else .refused .wrongPhase

/-- The meaning of `POLL`: one whole cycle (R140, R12 big-step; log 20). -/
def execPoll (s : State) : Host.Outcome State Fault Refusal := perform pollRun s

end Sys2Proof.Machine
end

