-- ==== Sys2Proof/Machine/Primitives.lean ====
section
/-! DEFINITION. The meanings of the sequencer's primitives other than bus transactions (00_scope.md rule
R9). -/

namespace Sys2Proof.Machine

/-- `DELAY #n` (R176). -/
def execDelay (n : Nat) (s : State) : Host.Outcome State Fault Refusal :=
  perform (fun s => .ok (delay n s)) s

/-- `NOW` (R175); the value goes to the register that the calling step names (R14; log 14). -/
def execNow (s : State) : Host.Outcome State Fault Refusal :=
  perform (fun s => .ok (now (timeDest s.seq) s)) s

/-- `RSTLINE #l` (R91). -/
def execRstline (l : Bool) (s : State) : Host.Outcome State Fault Refusal :=
  perform (fun s => .ok (rstLine l s)) s

/-- `BUSOPEN` (R92). -/
def execBusopen (s : State) : Host.Outcome State Fault Refusal :=
  perform (fun s => .ok (busOpen s)) s

/-- `EMIT` (R150; log 21). -/
def execEmit (s : State) : Host.Outcome State Fault Refusal :=
  perform (fun s => .ok (emit s)) s

end Sys2Proof.Machine
end

