-- ==== Sys2Proof/Machine/Transport.lean ====
section
/-! DEFINITION. The meanings of the Register Transport's operations (40_transport.md) and of the
pseudo-operations built on them (30_encoding.md rule R74). -/

namespace Sys2Proof.Machine

/-- `WR a, #v` (R82). -/
def execWr (a v : Byte) (s : State) : Host.Outcome State Fault Refusal := perform (wr a v) s

/-- `RD a` with the data byte of its frame; the value goes to the register that the calling step names
(R83, R14; log 4, log 14). -/
def execRd (a d : Byte) (s : State) : Host.Outcome State Fault Refusal :=
  perform (rdSending d a (readDest s.seq)) s

/-- `SETBITS a, #m` (R86). -/
def execSetbits (a m : Byte) (s : State) : Host.Outcome State Fault Refusal := perform (setBits a m) s

/-- `CLRIRQ`: `WR A_COMIRQ, #IRQ_CLEAR` (R74). -/
def execClrirq (s : State) : Host.Outcome State Fault Refusal :=
  perform (wr s.params.chip.comIrq.toByte s.params.chip.irqClear) s

/-- `FLUSH`: `WR A_FIFOLEVEL, #FIFO_FLUSH` (R74). -/
def execFlush (s : State) : Host.Outcome State Fault Refusal :=
  perform (wr s.params.chip.fifoLevel.toByte s.params.chip.fifoFlush) s

/-- `CMD #c`: `WR A_COMMAND, #c` (R74; log 26). -/
def execCmd (c : Byte) (s : State) : Host.Outcome State Fault Refusal :=
  perform (wr s.params.chip.command.toByte c) s

/-- `PUSH #v`: `WR A_FIFODATA, #v` (R74). -/
def execPush (v : Byte) (s : State) : Host.Outcome State Fault Refusal :=
  perform (wr s.params.chip.fifoData.toByte v) s

/-- `POP`: `RD A_FIFODATA` (R74). -/
def execPop (s : State) : Host.Outcome State Fault Refusal :=
  perform (rd s.params.chip.fifoData (readDest s.seq)) s

end Sys2Proof.Machine
end

