-- ==== Sys2Proof/Machine/Dispatch.lean ====
section
/-! DEFINITION. The dispatch: one arm per row of spec/opcode_table.json, one direct call of its meaning. -/

namespace Sys2Proof.Machine

def exec (i : Instr) (s : State) : Host.Outcome State Fault Refusal :=
  match i with
  | .wr a v => Sys2Proof.Machine.execWr a v s
  | .rd a d => Sys2Proof.Machine.execRd a d s
  | .reqa => Sys2Proof.Machine.execReqa s
  | .anticollCl1 => Sys2Proof.Machine.execAnticollCl1 s
  | .uidAnswer u0 u1 u2 u3 c => Sys2Proof.Machine.execUidAnswer u0 u1 u2 u3 c s
  | .delay n => Sys2Proof.Machine.execDelay n s
  | .now => Sys2Proof.Machine.execNow s
  | .rstline l => Sys2Proof.Machine.execRstline l s
  | .busopen => Sys2Proof.Machine.execBusopen s
  | .emit => Sys2Proof.Machine.execEmit s
  | .setbits a m => Sys2Proof.Machine.execSetbits a m s
  | .clrirq => Sys2Proof.Machine.execClrirq s
  | .flush => Sys2Proof.Machine.execFlush s
  | .cmd c => Sys2Proof.Machine.execCmd c s
  | .push v => Sys2Proof.Machine.execPush v s
  | .pop => Sys2Proof.Machine.execPop s
  | .init => Sys2Proof.Machine.execInit s
  | .poll => Sys2Proof.Machine.execPoll s
  | .detect => Sys2Proof.Machine.execDetect s
  | .acquire => Sys2Proof.Machine.execAcquire s

end Sys2Proof.Machine
end

