-- ==== Sys2Proof/Machine/Sequencer.lean ====
section
/-! DEFINITION. The hardwired sequencer, one step of a step list at a time (10_state.md rules R9, R12): at
each position, what the step does and which position follows. The steps are the ones the routines'
meanings are made of. -/

namespace Sys2Proof.Machine

/-- Call a subroutine: the return link holds the position to go on at (R12). -/
def callSub (target back : Pos) (s : State) : State := { s with seq := target, link := some back }

/-- One step of `INIT` (R90). -/
def initStep (num sub : Nat) (s : State) : Host.Outcome State Fault Refusal :=
  match num, sub with
  | 1, 0 => outcome (init1a s) (goto ⟨.init, 1, 1⟩)
  | 1, 1 => outcome (init1b s) (goto ⟨.init, 1, 2⟩)
  | 1, 2 => outcome (init1c s) (goto ⟨.init, 1, 3⟩)
  | 1, 3 => outcome (init1d s) (goto ⟨.init, 2, 0⟩)
  | 2, 0 => outcome (init2 s) (goto ⟨.init, 3, 0⟩)
  | 3, 0 => outcome (init3a s) (goto ⟨.init, 3, 1⟩)
  | 3, 1 => outcome (init3b s) (goto ⟨.init, 3, 2⟩)
  | 3, 2 => outcome (init3c s) (goto ⟨.init, 4, 0⟩)
  | 4, 0 => outcome (init4a s) (goto ⟨.init, 4, 1⟩)
  | 4, 1 => outcome (init4b s) (goto ⟨.init, 5, 0⟩)
  | 5, 0 => outcome (init5a s) (goto ⟨.init, 5, 1⟩)
  | 5, 1 => outcome (init5b s) (goto ⟨.init, 6, 0⟩)
  | 6, k =>
    match s.params.chip.configWrites[k]? with
    | some w => outcome (configWrite w s) (goto ⟨.init, 6, k + 1⟩)
    | none =>
      if k = s.params.chip.configWrites.length then outcome (init6b s) (goto ⟨.init, 7, 0⟩)
      else .fault .noSuchStep
  | 7, 0 => outcome (init7 s) id
  | _, _ => .fault .noSuchStep

/-- One step of `DETECT` (R118). -/
def detectStep (num sub : Nat) (s : State) : Host.Outcome State Fault Refusal :=
  match num, sub with
  | 1, 0 => outcome (detect1 s) (goto ⟨.detect, 2, 0⟩)
  | 2, 0 => outcome (detect2 s) (goto ⟨.detect, 3, 0⟩)
  | 3, 0 => outcome (detect3 s) (goto ⟨.detect, 4, 0⟩)
  | 4, 0 => outcome (detect4 s) (goto ⟨.detect, 5, 0⟩)
  | 5, 0 => outcome (detect5 s) (goto ⟨.detect, 6, 0⟩)
  | 6, 0 => outcome (detect6 s) (goto ⟨.detect, 7, 0⟩)
  | 7, 0 => outcome (detect7 s) (goto ⟨.detect, 8, 0⟩)
  | 8, 0 => outcome (detect8 s) (goto ⟨.detect, 9, 0⟩)
  | 9, 0 => outcome (detect9 s) returnToCaller
  | _, _ => .fault .noSuchStep

/-- Where `ACQUIRE` goes after a sample of the interrupt register without a raise (R122). -/
def afterSample (s : State) : State :=
  if rxComplete s then goto ⟨.acquire, 7, 0⟩ s else goto ⟨.acquire, 6, 3⟩ s

/-- Where `ACQUIRE` goes after its step 10: to its caller, or to the idle write of `ACQ_IDLE_AFTER`. -/
def afterGate (s : State) : State :=
  if s.params.acqIdleAfter then goto ⟨.acquire, 11, 0⟩ s else returnToCaller s

/-- One step of `ACQUIRE` (R129). -/
def acquireStep (num sub : Nat) (s : State) : Host.Outcome State Fault Refusal :=
  match num, sub with
  | 0, 0 => outcome (acquire0 s) (goto ⟨.acquire, 1, 0⟩)
  | 1, 0 => outcome (acquire1 s) (goto ⟨.acquire, 2, 0⟩)
  | 2, 0 => outcome (acquire2 s) (goto ⟨.acquire, 3, 0⟩)
  | 3, 0 => outcome (acquire3 s) (goto ⟨.acquire, 4, 0⟩)
  | 4, 0 => outcome (acquire4a s) (goto ⟨.acquire, 4, 1⟩)
  | 4, 1 => outcome (acquire4b s) (goto ⟨.acquire, 5, 0⟩)
  | 5, 0 => outcome (acquire5a s) (goto ⟨.acquire, 5, 1⟩)
  | 5, 1 => outcome (acquire5b s) (goto ⟨.acquire, 6, 0⟩)
  | 6, 0 => outcome (acquire6Entry s) (goto ⟨.acquire, 6, 1⟩)
  | 6, 1 => outcome (acquire6Deadline s) (goto ⟨.acquire, 6, 2⟩)
  | 6, 2 => outcome (acquire6Sample s) afterSample
  | 6, 3 => .next (goto ⟨.acquire, 6, 1⟩ (acquire6Wait s))
  | 7, 0 => outcome (acquire7 s) (goto ⟨.acquire, 8, 0⟩)
  | 8, 0 => outcome (acquire8 s) (goto ⟨.acquire, 9, 0⟩)
  | 9, 0 => outcome (acquire9a s) (goto ⟨.acquire, 9, 1⟩)
  | 9, 1 => outcome (acquire9b s) (goto ⟨.acquire, 9, 2⟩)
  | 9, 2 => outcome (acquire9c s) (goto ⟨.acquire, 9, 3⟩)
  | 9, 3 => outcome (acquire9d s) (goto ⟨.acquire, 9, 4⟩)
  | 9, 4 => outcome (acquire9e s) (goto ⟨.acquire, 10, 0⟩)
  | 10, 0 => outcome (acquire10 s) afterGate
  | 11, 0 => outcome (acquire11 s) returnToCaller
  | _, _ => .fault .noSuchStep

/-- The dispatch of `POLL` step 2 (R142). -/
def pollDispatch (s : State) : State :=
  match s.samples.detS, s.pres.presence with
  | .busFault, _ => goto ⟨.poll, 8, 0⟩ s
  | .absent, .present => goto ⟨.poll, 8, 0⟩ (pollFall s)
  | .absent, .absent => goto ⟨.poll, 8, 0⟩ s
  | .present, .present => goto ⟨.poll, 8, 0⟩ s
  | .present, .absent => goto ⟨.poll, 3, 0⟩ s

/-- One step of `POLL` (R140). -/
def pollStep (num sub : Nat) (s : State) : Host.Outcome State Fault Refusal :=
  match num, sub with
  | 1, 0 => .next (callSub ⟨.detect, 1, 0⟩ ⟨.poll, 2, 0⟩ s)
  | 2, 0 => .next (pollDispatch s)
  | 3, 0 => .next (callSub ⟨.acquire, 0, 0⟩ ⟨.poll, 3, 1⟩ s)
  | 3, 1 => .next (if s.samples.acqOk then goto ⟨.poll, 4, 0⟩ s else goto ⟨.poll, 7, 0⟩ s)
  | 4, 0 => .next (goto ⟨.poll, 5, 0⟩ (poll4 s))
  | 5, 0 => .next (if emitDue s then goto ⟨.poll, 6, 0⟩ s else goto ⟨.poll, 7, 0⟩ s)
  | 6, 0 => .next (goto ⟨.poll, 7, 0⟩ (poll6 s))
  | 7, 0 => .next (goto ⟨.poll, 8, 0⟩ (poll7 s))
  | 8, 0 => .next (poll8 s)
  | _, _ => .fault .noSuchStep

/-- One step of the sequencer at the position `seq` (R12). -/
def sequencerStep (s : State) : Host.Outcome State Fault Refusal :=
  match s.seq.routine with
  | .init => initStep s.seq.num s.seq.sub s
  | .poll => pollStep s.seq.num s.seq.sub s
  | .detect => detectStep s.seq.num s.seq.sub s
  | .acquire => acquireStep s.seq.num s.seq.sub s
  | .none => .fault .noSuchStep

end Sys2Proof.Machine
end

