-- ==== Sys2Proof/Machine/Step.lean ====
section
/-! DEFINITION. One step of the machine: an operation placed from outside, if there is one (log 11), else
the sequencer's own next step (10_state.md rule R12). -/

namespace Sys2Proof.Machine

/-- Perform a placed operation: what the decoder reads from it, or a refusal by name. -/
def placedStep (op : Op) (s : State) : Host.Outcome State Fault Refusal :=
  match decode s.params op with
  | .ok i => exec i s
  | .error e => .refused (.undecodable e)

/-- One step: the placed operation, whose own effect is all that can move the sequencer position (log 11),
or the sequencer's next step. In `HALTED` the block performs none (R168). -/
def step (s : State) : Host.Outcome State Fault Refusal :=
  if s.phase = .halted then .fault .halted
  else
    match s.ops with
    | op :: rest => placedStep op { s with ops := rest }
    | [] => sequencerStep s

/-- The state with the operation of a table word placed as its next one (log 11, log 13). -/
def State.withFetchWord (s : State) (nbits w : Nat) : State :=
  { s with ops := tableOp nbits w :: s.ops }

end Sys2Proof.Machine
end

