-- ==== Sys2Proof/Safety.lean ====
section
/-! DEFINITION. The terms that claims about a run use: what the trace shows, what a checked card answer is,
and the invariant of the machine's own runs (10_state.md rule R27). -/

namespace Sys2Proof.Safety

open Sys2Proof.Machine

/-! ### What the trace shows -/

/-- Whether a trace item is a bus transaction. -/
def isXfer : Event → Bool
  | .xfer _ _ _ => true
  | .rst _ => false
  | .busOpened => false
  | .delayed _ => false
  | .clock _ => false
  | .emitted _ _ _ => false
  | .raised _ => false

/-- The number of bus transactions in a trace. -/
def transactions (tr : List Event) : Nat := (tr.filter isXfer).length

/-- The record an item puts on the event port, if it does. -/
def reportOf : Event → Option (Text × Text × Time)
  | .emitted u l t => some (u, l, t)
  | .xfer _ _ _ => none
  | .rst _ => none
  | .busOpened => none
  | .delayed _ => none
  | .clock _ => none
  | .raised _ => none

/-- The records of the event port, oldest first (R23). -/
def reports (tr : List Event) : List (Text × Text × Time) := tr.filterMap reportOf

/-- Whether an item is a transaction that the environment answered with `fail`. -/
def isBusFailure : Event → Bool
  | .xfer _ _ .fail => true
  | .xfer _ _ (.ok _ _) => false
  | .rst _ => false
  | .busOpened => false
  | .delayed _ => false
  | .clock _ => false
  | .emitted _ _ _ => false
  | .raised _ => false

/-- The trace item of a write that was answered (R82). -/
def wrote (a : RegIx) (v r0 r1 : Byte) : Event := .xfer (addrByte a.toByte false) v (.ok r0 r1)

/-- The trace item of a read that was answered (R83). -/
def didRead (p : Params) (a : RegIx) (r0 r1 : Byte) : Event :=
  .xfer (addrByte a.toByte true) p.dummy (.ok r0 r1)

/-! ### The clock -/

/-- Once a `Now` has been returned, its bound on later ones is never lost and never falls (R175). -/
def ClockKept (e e' : Env) : Prop := ∀ c, e.clock = some c → ∃ c', e'.clock = some c' ∧ c ≤ c'

/-- A list of operations, one after the other. -/
def performAll : List Instr → State → Host.Outcome State Fault Refusal
  | [], s => .next s
  | i :: is, s =>
    match exec i s with
    | .next t => performAll is t
    | .fault f => .fault f
    | .refused q => .refused q

/-! ### Runs of `ACQUIRE` that poll more than once -/

/-- The trace items of laps of the poll loop without a flag, from the lower bound `t` of the clock: the
clock advances by one of `ds` beyond its bound, the sample is one of `rs`, and `Delay(1)` follows (R122). -/
def lapEvents (p : Params) : Time → List Nat → List (Byte × Byte) → List Event
  | t, d :: ds, r :: rs =>
    .clock (t + d) :: didRead p p.chip.comIrq r.1 r.2 :: .delayed 1 :: lapEvents p (t + d + 1) ds rs
  | _, [], _ => []
  | _, _ :: _, [] => []

/-- A sample of the interrupt register with neither flag set (R122). -/
def NoFlag (p : Params) (r : Byte × Byte) : Prop := r.2 &&& p.chip.irqRx = 0 ∧ r.2 &&& p.chip.irqTimer = 0

/-! ### Card answers -/

/-- The answer registers hold an answer whose checksum passed in this cycle (R27 (a), R127). -/
def CardChecked (s : State) : Prop :=
  s.acqState = .valid ∧ checksum s.answer.uid = s.answer.chkRx

/-- The last record on the event port is the stored last report, and nothing is stored before the first
(R27 (c)). -/
def LastReportStored (s : State) : Prop :=
  match (reports s.trace).getLast? with
  | none => s.pres.lastUid = none ∧ s.pres.lastTs = 0
  | some (u, _, t) => ∃ id, s.pres.lastUid = some id ∧ uidString id = u ∧ s.pres.lastTs = t

/-! ### Where the sequencer can be -/

/-- The positions of `INIT` for a configuration of `n` writes (R90). -/
def initPosition (n num sub : Nat) : Bool :=
  match num with
  | 1 => decide (sub < 4)
  | 2 => decide (sub = 0)
  | 3 => decide (sub < 3)
  | 4 => decide (sub < 2)
  | 5 => decide (sub < 2)
  | 6 => decide (sub ≤ n)
  | 7 => decide (sub = 0)
  | _ => false

/-- The positions of `DETECT` (R118). -/
def detectPosition (num sub : Nat) : Bool := decide (1 ≤ num) && decide (num ≤ 9) && decide (sub = 0)

/-- The positions of `ACQUIRE` (R129); step 11 exists only under `ACQ_IDLE_AFTER`. -/
def acquirePosition (idleAfter : Bool) (num sub : Nat) : Bool :=
  match num with
  | 0 | 1 | 2 | 3 | 7 | 8 | 10 => decide (sub = 0)
  | 4 | 5 => decide (sub < 2)
  | 6 => decide (sub < 4)
  | 9 => decide (sub < 5)
  | 11 => idleAfter && decide (sub = 0)
  | _ => false

/-- The positions of `POLL` (R140). -/
def pollPosition (num sub : Nat) : Bool :=
  match num with
  | 1 | 2 | 4 | 5 | 6 | 7 | 8 => decide (sub = 0)
  | 3 => decide (sub < 2)
  | _ => false

/-! ### The step lists in terms of operations -/

/-- The steps that are one operation and nothing more: at a position, the operation that the step list
names there (R90, R118, R129, R140) and the position that follows. -/
def listedOperation (p : Params) (pos : Pos) : Option (Instr × Pos) :=
  match pos.routine, pos.num, pos.sub with
  | .init, 1, 0 => some (.rstline false, ⟨.init, 1, 1⟩)
  | .init, 1, 1 => some (.delay 100, ⟨.init, 1, 2⟩)
  | .init, 1, 2 => some (.rstline true, ⟨.init, 1, 3⟩)
  | .init, 1, 3 => some (.delay 50, ⟨.init, 2, 0⟩)
  | .init, 2, 0 => some (.busopen, ⟨.init, 3, 0⟩)
  | .init, 3, 0 => some (.wr p.chip.tMode.toByte 0x8D, ⟨.init, 3, 1⟩)
  | .init, 3, 1 => some (.rd p.chip.tMode.toByte p.dummy, ⟨.init, 3, 2⟩)
  | .init, 4, 0 => some (.cmd p.chip.cmdSoftReset, ⟨.init, 4, 1⟩)
  | .init, 4, 1 => some (.delay 50, ⟨.init, 5, 0⟩)
  | .init, 5, 0 => some (.rd p.chip.version.toByte p.dummy, ⟨.init, 5, 1⟩)
  | .detect, 1, 0 => some (.clrirq, ⟨.detect, 2, 0⟩)
  | .detect, 2, 0 => some (.wr p.chip.bitFraming.toByte p.chip.bfShort7, ⟨.detect, 3, 0⟩)
  | .detect, 3, 0 => some (.push 0x26, ⟨.detect, 4, 0⟩)
  | .detect, 4, 0 => some (.cmd p.chip.cmdTransceive, ⟨.detect, 5, 0⟩)
  | .detect, 5, 0 =>
    some (.wr p.chip.bitFraming.toByte (p.chip.bfShort7 ||| p.chip.bfStart), ⟨.detect, 6, 0⟩)
  | .detect, 6, 0 => some (.delay 25, ⟨.detect, 7, 0⟩)
  | .detect, 7, 0 => some (.rd p.chip.comIrq.toByte p.dummy, ⟨.detect, 8, 0⟩)
  | .detect, 8, 0 => some (.cmd p.chip.cmdIdle, ⟨.detect, 9, 0⟩)
  | .acquire, 1, 0 => some (.clrirq, ⟨.acquire, 2, 0⟩)
  | .acquire, 2, 0 => some (.flush, ⟨.acquire, 3, 0⟩)
  | .acquire, 3, 0 => some (.wr p.chip.bitFraming.toByte p.chip.bfFull, ⟨.acquire, 4, 0⟩)
  | .acquire, 4, 0 => some (.push 0x93, ⟨.acquire, 4, 1⟩)
  | .acquire, 4, 1 => some (.push 0x20, ⟨.acquire, 5, 0⟩)
  | .acquire, 5, 0 => some (.cmd p.chip.cmdTransceive, ⟨.acquire, 5, 1⟩)
  | .acquire, 6, 0 => some (.now, ⟨.acquire, 6, 1⟩)
  | .acquire, 6, 3 => some (.delay 1, ⟨.acquire, 6, 1⟩)
  | .acquire, 9, 0 => some (.pop, ⟨.acquire, 9, 1⟩)
  | .acquire, 9, 1 => some (.pop, ⟨.acquire, 9, 2⟩)
  | .acquire, 9, 2 => some (.pop, ⟨.acquire, 9, 3⟩)
  | .acquire, 9, 3 => some (.pop, ⟨.acquire, 9, 4⟩)
  | .acquire, 9, 4 => some (.pop, ⟨.acquire, 10, 0⟩)
  | .poll, 4, 0 => some (.now, ⟨.poll, 5, 0⟩)
  | .poll, 8, 0 => some (.delay 500, ⟨.poll, 1, 0⟩)
  | _, _, _ => none

/-- The operations that are bus transactions, and so need the open bus and an answer (R81). -/
def needsBus : Instr → Bool
  | .wr _ _ | .rd _ _ | .reqa | .anticollCl1 | .setbits _ _ | .clrirq | .flush | .cmd _ | .push _ | .pop
  | .poll | .detect | .acquire => true
  | .uidAnswer _ _ _ _ _ | .delay _ | .now | .rstline _ | .busopen | .emit | .init => false

/-- In `INIT`: the reset line is high from step 1d on and the bus is open from step 3 on (R91, R92);
nothing has been seen or reported yet (R102). -/
structure InInit (s : State) : Prop where
  routine  : s.seq.routine = .init
  position : initPosition s.params.chip.configWrites.length s.seq.num s.seq.sub = true
  link     : s.link = none
  line     : 1 < s.seq.num ∨ s.seq.sub = 3 → s.rstLine = true
  bus      : 2 < s.seq.num → s.busOpen = true
  unseen   : s.pres.presence = .absent ∧ s.pres.lastUid = none
  noCause  : s.haltCause = .none

/-- In `POLL`: from step 3 to step 7 the cycle has a rising edge (R142, R143); `acq_ok` means a checked
answer, and steps 4 to 6 are reached only with one (R145, R203). -/
structure InPoll (s : State) : Prop where
  routine  : s.seq.routine = .poll
  position : pollPosition s.seq.num s.seq.sub = true
  link     : s.link = none
  rising   : 3 ≤ s.seq.num → s.seq.num ≤ 7 → s.pres.presence = .absent ∧ s.samples.detS = .present
  acquired : s.seq.num = 3 → s.seq.sub = 1 → s.samples.acqOk = true → CardChecked s
  checked  : 4 ≤ s.seq.num → s.seq.num ≤ 6 → CardChecked s
  sampled  : 5 ≤ s.seq.num → s.seq.num ≤ 6 → s.samples.nowS ≤ clockFloor s.env

/-- In `DETECT`, called from `POLL` step 1 (R141). -/
structure InDetect (s : State) : Prop where
  routine  : s.seq.routine = .detect
  position : detectPosition s.seq.num s.seq.sub = true
  link     : s.link = some ⟨.poll, 2, 0⟩

/-- In `ACQUIRE`, called from `POLL` step 3 on a rising edge (R143); `acq_ok` is 0 until the integrity gate
has passed (R119, R127); the poll loop's start lies in the past (R122). -/
structure InAcquire (s : State) : Prop where
  routine  : s.seq.routine = .acquire
  position : acquirePosition s.params.acqIdleAfter s.seq.num s.seq.sub = true
  link     : s.link = some ⟨.poll, 3, 1⟩
  rising   : s.pres.presence = .absent ∧ s.samples.detS = .present
  notYet   : 1 ≤ s.seq.num → s.seq.num ≤ 10 → s.samples.acqOk = false
  atEnd    : s.seq.num = 11 → s.samples.acqOk = true → CardChecked s
  started  : s.seq.num = 6 → 1 ≤ s.seq.sub → ∃ c, s.env.clock = some c ∧ s.samples.acqT0 ≤ c

/-- After a failed bring-up (R168): what caused it is the last error, and it is one of the three errors of
`INIT`; the lines stay as they were. -/
structure InHalt (s : State) : Prop where
  seq     : s.seq = ⟨.none, 0, 0⟩
  link    : s.link = none
  cause   : s.haltCause = s.lastError
  fatal   : s.haltCause = .transportError ∨ s.haltCause = .transportUnresponsive ∨
    s.haltCause = .chipNotDetected
  line    : s.rstLine = true
  bus     : s.busOpen = true
  unseen  : s.pres.presence = .absent ∧ s.pres.lastUid = none

/-- The mode and the sequencer position agree (R11, R12, R27 (d), R173). -/
def Placed (s : State) : Prop :=
  match s.phase with
  | .bringup => InInit s
  | .polling =>
    s.busOpen = true ∧ s.rstLine = true ∧ s.haltCause = .none ∧ (InPoll s ∨ InDetect s ∨ InAcquire s)
  | .halted => InHalt s

/-- The invariant of the machine's own runs, in which nothing is placed from outside. -/
structure Inv (s : State) : Prop where
  noOps    : s.ops = []
  placed   : Placed s
  reported : LastReportStored s
  past     : s.pres.lastTs ≤ clockFloor s.env

end Sys2Proof.Safety
end

