-- ==== Sys2Proof/Certificates/Slice0/Obligations.lean ====
section
/-! DEFINITION. The statements for the provers, each from the numbered rules of spec/. A statement about a
bus transaction speaks of the environment's next answer, `nextAnswer s.env`, scripted or free (log 1); a
statement about a whole routine speaks of scripted answers, which can be any. -/

open Sys2Proof Sys2Proof.Machine Sys2Proof.Safety

/-! ### Reset, decoding, and what a step runs -/

/-- R191, the elements it gives a value. -/
def Obligations.ResetStateAsSpecified : Prop :=
  State.reset.phase = .bringup ∧ State.reset.seq = ⟨.init, 1, 0⟩ ∧ State.reset.link = none ∧
  State.reset.busOpen = false ∧ State.reset.pres = ⟨.absent, none, 0⟩ ∧
  State.reset.acqState = .idle ∧ State.reset.lastError = .none ∧ State.reset.haltCause = .none ∧
  State.reset.trace = []

/-- The first step from reset drives the reset line low (R190, R91). -/
def Obligations.ResetBeginsWithTheHardReset : Prop :=
  step State.reset =
    .next { State.reset with rstLine := false, trace := [.rst false], seq := ⟨.init, 1, 1⟩ }

/-- Words written out from R60 to R66, R74 and R75 decode to the operations they stand for; that an encoded
operation carries its format is the model's choice (log 12), and that `08 7F` is `CLRIRQ` rests on the
default `ChipMap` of R6, which is presumed (log 3). -/
def Obligations.SpecWordsDecode : Prop :=
  decode defaultParams ⟨.busFrame16, [0b01010100, 0b10001101]⟩ = .ok (.wr 0x2A 0x8D) ∧
  decode defaultParams ⟨.busFrame16, [0b11101110, 0b00000000]⟩ = .ok (.rd 0x37 0x00) ∧
  decode defaultParams ⟨.cardFrame7, [0b0100110]⟩ = .ok .reqa ∧
  decode defaultParams ⟨.cardFrame16, [0b10010011, 0b00100000]⟩ = .ok .anticollCl1 ∧
  decode defaultParams ⟨.cardAnswer40, [0x04, 0xA3, 0x9F, 0x1B, 0x23]⟩ =
    .ok (.uidAnswer 0x04 0xA3 0x9F 0x1B 0x23) ∧
  decode defaultParams ⟨.prim, [0b010]⟩ = .ok .now ∧
  decode defaultParams ⟨.pseudo, [0b00001000, 0b01111111]⟩ = .ok .clrirq ∧
  decode defaultParams ⟨.routine, [0b011]⟩ = .ok .detect

/-- Operations placed from outside are the model's own way in (log 11). One that decodes to `i` gives a well
formed `i`, and the step is `exec` of `i` on the state with the operation taken from the queue; the step
adds nothing around `exec`. One that does not decode is refused by name (R71). The word that
`withFetchWord` places is the one `decodeTableWord` reads. -/
def Obligations.StepRunsPlacedOperation : Prop :=
  (∀ (s : State) (op : Op) (rest : List Op), s.phase ≠ .halted → s.ops = op :: rest →
    (∀ i, decode s.params op = .ok i → i.wf = true ∧ step s = exec i { s with ops := rest }) ∧
    (∀ e, decode s.params op = .error e → step s = .refused (.undecodable e))) ∧
  (∀ (s : State) (nbits w : Nat) (i : Instr), s.phase ≠ .halted → decodeTableWord nbits w = some i →
    step (s.withFetchWord nbits w) = exec i s)

/-- A step at a position whose step is one listed operation is `exec` of that operation, after which the
sequencer is at the listed next position (R9, R12, R50; R90, R118, R129, R140). Only an operation that is a
transaction needs the open bus and an answer. -/
def Obligations.HardwiredStepRunsItsOperation : Prop :=
  ∀ (s : State) (i : Instr) (q : Pos), s.phase ≠ .halted → s.ops = [] →
    listedOperation s.params s.seq = some (i, q) →
    (needsBus i = true → s.busOpen = true ∧ nextAnswer s.env ≠ .fail) →
    ∃ t, exec i s = .next t ∧ step s = .next { t with seq := q }

/-- Decoding an encoded well-formed operation gives it back, under every well-formed `ChipMap` (R60 to R66,
R74, R75; formats and operand bytes: log 12, log 27). -/
def Obligations.DecodeOfEncode : Prop :=
  ∀ (p : Params) (i : Instr), p.chip.wf = true → i.wf = true → decode p (encode p i) = .ok i

/-- Bytes that decode are exactly the bytes that the encoder writes: no byte has two readings and none is
dropped (R60 to R66, R74, R75; formats and operand bytes: log 12, log 27). -/
def Obligations.EncodeOfDecode : Prop :=
  ∀ (p : Params) (op : Op) (i : Instr), decode p op = .ok i → encode p i = op

/-- R61: the fields of an assembled address byte. -/
def Obligations.AddressByteFields : Prop :=
  ∀ (a : Byte) (read : Bool), a ≤ 0x3F#8 →
    addrByte a read = ((a <<< 1) &&& 0x7E) ||| (if read then 0x80 else 0x00) ∧
    (addrByte a read).getLsbD 7 = read ∧ (addrByte a read >>> 1) &&& 0x3F = a ∧
    (addrByte a read).getLsbD 0 = false

/-! ### The transport -/

/-- An index above 0x3F is refused, never truncated (R43, D35). -/
def Obligations.IndexAbove3FRefused : Prop :=
  ∀ (s : State) (a v : Byte), s.phase ≠ .halted → ¬ a ≤ 0x3F#8 →
    exec (.wr a v) s = .refused .indexAbove3F ∧ exec (.rd a v) s = .refused .indexAbove3F ∧
    exec (.setbits a v) s = .refused .indexAbove3F

/-- R81: every operation that needs an `Xfer` is refused while the bus is closed; `POLL` in the phase in
which it runs. That `DETECT` and `ACQUIRE` belong to no phase is the model's choice (log 18). -/
def Obligations.ClosedBusRefusesTransfers : Prop :=
  ∀ (s : State) (a v : Byte), s.phase ≠ .halted → s.busOpen = false → a ≤ 0x3F#8 →
    (∀ i ∈ [Instr.wr a v, .rd a v, .setbits a v, .clrirq, .flush, .cmd v, .push v, .pop, .reqa,
      .anticollCl1, .detect, .acquire], exec i s = .refused .busNotOpen) ∧
    (s.phase = .polling → exec .poll s = .refused .busNotOpen)

/-- R82: `WR` is one transaction of the address byte and the value; the transport registers, the trace and
the environment are all it changes. -/
def Obligations.WrResult : Prop :=
  ∀ (s : State) (a v r0 r1 : Byte), s.phase ≠ .halted → s.busOpen = true → a ≤ 0x3F#8 →
    nextAnswer s.env = .ok r0 r1 →
    exec (.wr a v) s = .next { s with
      bus := ⟨(a <<< 1) &&& 0x7E, v, r0, r1⟩
      env := popAnswer s.env
      trace := s.trace ++ [.xfer ((a <<< 1) &&& 0x7E) v (.ok r0 r1)] }

/-- R83: `RD` is one transaction; the SECOND received byte goes to the register that the step names.
That the operation sends the data byte of its own frame, which is `DUMMY` in every step list, is the model's
choice (log 4), and so is that a position which names no register fills none (log 14). -/
def Obligations.RdResult : Prop :=
  ∀ (s : State) (a d r0 r1 : Byte), s.phase ≠ .halted → s.busOpen = true → a ≤ 0x3F#8 →
    nextAnswer s.env = .ok r0 r1 →
    exec (.rd a d) s = .next (setDest (readDest s.seq) r1 { s with
      bus := ⟨((a <<< 1) &&& 0x7E) ||| 0x80, d, r0, r1⟩
      env := popAnswer s.env
      trace := s.trace ++ [.xfer (((a <<< 1) &&& 0x7E) ||| 0x80) d (.ok r0 r1)] })

/-- R14 and R126, column "written by": which register the value of a read goes to at which step; a read at
any other position writes none, which is the model's choice (log 14). -/
def Obligations.ReadFillsTheRegisterOfItsStep : Prop :=
  ∀ (s t : State) (a d r0 r1 : Byte), nextAnswer s.env = .ok r0 r1 → exec (.rd a d) s = .next t →
    (s.seq = ⟨.init, 3, 1⟩ → t.samples = { s.samples with probeS := r1 } ∧ t.answer = s.answer) ∧
    (s.seq = ⟨.init, 5, 0⟩ → t.samples = { s.samples with verS := r1 } ∧ t.answer = s.answer) ∧
    (s.seq = ⟨.detect, 7, 0⟩ ∨ s.seq = ⟨.acquire, 6, 2⟩ →
      t.samples = { s.samples with irqS := r1 } ∧ t.answer = s.answer) ∧
    (s.seq = ⟨.acquire, 7, 0⟩ → t.samples = { s.samples with errS := r1 } ∧ t.answer = s.answer) ∧
    (s.seq = ⟨.acquire, 8, 0⟩ → t.samples = { s.samples with lvlS := r1 } ∧ t.answer = s.answer) ∧
    (s.seq = ⟨.acquire, 9, 0⟩ → t.samples = s.samples ∧
      t.answer = { s.answer with uid := { s.answer.uid with b0 := r1 } }) ∧
    (s.seq = ⟨.acquire, 9, 1⟩ → t.samples = s.samples ∧
      t.answer = { s.answer with uid := { s.answer.uid with b1 := r1 } }) ∧
    (s.seq = ⟨.acquire, 9, 2⟩ → t.samples = s.samples ∧
      t.answer = { s.answer with uid := { s.answer.uid with b2 := r1 } }) ∧
    (s.seq = ⟨.acquire, 9, 3⟩ → t.samples = s.samples ∧
      t.answer = { s.answer with uid := { s.answer.uid with b3 := r1 } }) ∧
    (s.seq = ⟨.acquire, 9, 4⟩ → t.samples = s.samples ∧ t.answer = { s.answer with chkRx := r1 }) ∧
    (s.seq ∉ [⟨.init, 3, 1⟩, ⟨.init, 5, 0⟩, ⟨.detect, 7, 0⟩, ⟨.acquire, 6, 2⟩, ⟨.acquire, 7, 0⟩,
        ⟨.acquire, 8, 0⟩, ⟨.acquire, 9, 0⟩, ⟨.acquire, 9, 1⟩, ⟨.acquire, 9, 2⟩, ⟨.acquire, 9, 3⟩,
        ⟨.acquire, 9, 4⟩] → t.samples = s.samples ∧ t.answer = s.answer)

/-- R47, R83: the first received byte of a read never influences anything. Two runs of a read that differ
only in it end alike, but for `rx0` and the trace that record it. The register that the read fills outside
the step lists is log 14. -/
def Obligations.FirstReceivedByteIgnored : Prop :=
  ∀ (s t t' : State) (e' : Env) (a d r0 r0' r1 : Byte), nextAnswer s.env = .ok r0 r1 →
    nextAnswer e' = .ok r0' r1 → exec (.rd a d) s = .next t →
    exec (.rd a d) { s with env := e' } = .next t' →
    { t' with bus := { t'.bus with rx0 := t.bus.rx0 }, trace := t.trace, env := t.env } = t

/-- R84, outside the routines that use the bus: one transaction, no second attempt; `last_error` is set and
nothing received or sampled changes. That nothing more happens there is the model's choice (log 14),
and so is the data byte that the read sends (log 4). -/
def Obligations.FailedTransferRaises : Prop :=
  ∀ (s : State) (a v : Byte), s.phase ≠ .halted → s.busOpen = true → a ≤ 0x3F#8 →
    nextAnswer s.env = .fail → (s.seq.routine = .poll ∨ s.seq.routine = .none) →
    exec (.wr a v) s = .next { s with
      bus := { s.bus with tx0 := (a <<< 1) &&& 0x7E, tx1 := v }
      env := popAnswer s.env
      lastError := .transportError
      trace := s.trace ++ [.xfer ((a <<< 1) &&& 0x7E) v .fail,
        .raised (.transportError ((a <<< 1) &&& 0x7E))] } ∧
    exec (.rd a v) s = .next { s with
      bus := { s.bus with tx0 := ((a <<< 1) &&& 0x7E) ||| 0x80, tx1 := v }
      env := popAnswer s.env
      lastError := .transportError
      trace := s.trace ++ [.xfer (((a <<< 1) &&& 0x7E) ||| 0x80) v .fail,
        .raised (.transportError (((a <<< 1) &&& 0x7E) ||| 0x80))] }

/-- R166 (3), R168, R118, R129: a `TransportError` ends the routine it occurs in. In `INIT`, with no attempt
left, the block halts and the lines keep the values they had; in a subroutine control goes to its caller
with the failure, `acq_state` is kept and the mode stays; the idle write of `ACQ_IDLE_AFTER` never follows.
That the routine which `seq` names is the one an operation occurs in is deduced (log 14), and the counter of
attempts (log 7) and that the link is empty after the return or the halt (log 23) are the model's choice. -/
def Obligations.FailedTransferEndsItsRoutine : Prop :=
  ∀ (s : State) (a v : Byte), s.phase ≠ .halted → s.busOpen = true → a ≤ 0x3F#8 →
    nextAnswer s.env = .fail → ∀ i ∈ [Instr.wr a v, .rd a v, .setbits a v],
    (s.seq.routine = .init → s.retriesLeft = 0 → ∃ t, exec i s = .next t ∧ t.phase = .halted ∧
      t.haltCause = .transportError ∧ t.lastError = .transportError ∧ t.seq = ⟨.none, 0, 0⟩ ∧
      t.rstLine = s.rstLine ∧ t.busOpen = true ∧ t.pres = s.pres ∧ t.samples = s.samples) ∧
    (∀ back, s.seq.routine = .detect → s.link = some back → ∃ t, exec i s = .next t ∧
      t.seq = back ∧ t.link = none ∧ t.samples = { s.samples with detS := .busFault } ∧
      t.lastError = .transportError ∧ t.phase = s.phase ∧ t.pres = s.pres) ∧
    (∀ back, s.seq.routine = .acquire → s.link = some back →
      ∃ t, exec i s = .next t ∧ t.seq = back ∧ t.link = none ∧
      t.samples = { s.samples with acqOk := false } ∧ t.acqState = s.acqState ∧
      t.lastError = .transportError ∧ t.phase = s.phase ∧ t.pres = s.pres)

/-- R86: `SETBITS` reads, then writes the old value with the mask's bits set, also when they were set
already; if the read fails, the write is not attempted; if the write fails, `txc_s` holds the old value.
Either failure is a `TransportError` with the address byte of its own transaction. -/
def Obligations.SetbitsResult : Prop :=
  ∀ (s : State) (a m : Byte), s.phase ≠ .halted → s.busOpen = true → a ≤ 0x3F#8 →
    (∀ x old y z, nextAnswer s.env = .ok x old → nextAnswer (popAnswer s.env) = .ok y z →
      exec (.setbits a m) s = .next { s with
        bus := ⟨(a <<< 1) &&& 0x7E, old ||| m, y, z⟩
        samples := { s.samples with txcS := old }
        env := popAnswer (popAnswer s.env)
        trace := s.trace ++ [.xfer (((a <<< 1) &&& 0x7E) ||| 0x80) s.params.dummy (.ok x old),
          .xfer ((a <<< 1) &&& 0x7E) (old ||| m) (.ok y z)] }) ∧
    (nextAnswer s.env = .fail → ∃ t, exec (.setbits a m) s = .next t ∧
      s.trace ++ [.xfer (((a <<< 1) &&& 0x7E) ||| 0x80) s.params.dummy .fail,
        .raised (.transportError (((a <<< 1) &&& 0x7E) ||| 0x80))] <+: t.trace ∧
      transactions t.trace = transactions s.trace + 1 ∧ t.samples.txcS = s.samples.txcS ∧
      t.lastError = .transportError) ∧
    (∀ x old, nextAnswer s.env = .ok x old → nextAnswer (popAnswer s.env) = .fail →
      ∃ t, exec (.setbits a m) s = .next t ∧
        s.trace ++ [.xfer (((a <<< 1) &&& 0x7E) ||| 0x80) s.params.dummy (.ok x old),
          .xfer ((a <<< 1) &&& 0x7E) (old ||| m) .fail,
          .raised (.transportError ((a <<< 1) &&& 0x7E))] <+: t.trace ∧
        transactions t.trace = transactions s.trace + 2 ∧ t.samples.txcS = old ∧
        t.lastError = .transportError)

/-- R74: the pseudo-operations of one frame are their expansions, in every state; with the bus open and
answering, each completes with that frame. That `POP` fills no register at a position whose step names none
(log 14) and that `CMD` writes every byte (log 26) are the model's choice. -/
def Obligations.PseudoOperationsExpand : Prop :=
  (∀ (s : State) (v : Byte),
    exec .clrirq s = exec (.wr s.params.chip.comIrq.toByte s.params.chip.irqClear) s ∧
    exec .flush s = exec (.wr s.params.chip.fifoLevel.toByte s.params.chip.fifoFlush) s ∧
    exec (.cmd v) s = exec (.wr s.params.chip.command.toByte v) s ∧
    exec (.push v) s = exec (.wr s.params.chip.fifoData.toByte v) s ∧
    exec .pop s = exec (.rd s.params.chip.fifoData.toByte s.params.dummy) s) ∧
  (∀ (s : State) (v r0 r1 : Byte), s.phase ≠ .halted → s.busOpen = true →
    nextAnswer s.env = .ok r0 r1 →
    (∀ w ∈ [(Instr.clrirq, s.params.chip.comIrq, s.params.chip.irqClear),
        (.flush, s.params.chip.fifoLevel, s.params.chip.fifoFlush), (.cmd v, s.params.chip.command, v),
        (.push v, s.params.chip.fifoData, v)],
      exec w.1 s = .next { s with
        bus := ⟨addrByte w.2.1.toByte false, w.2.2, r0, r1⟩
        env := popAnswer s.env
        trace := s.trace ++ [wrote w.2.1 w.2.2 r0 r1] }) ∧
    exec .pop s = .next (setDest (readDest s.seq) r1 { s with
      bus := ⟨addrByte s.params.chip.fifoData.toByte true, s.params.dummy, r0, r1⟩
      env := popAnswer s.env
      trace := s.trace ++ [didRead s.params s.params.chip.fifoData r0 r1] }))

/-! ### The other primitives -/

/-- R176: `DELAY` adds its item to the trace and, once a `NOW` has been returned, moves the clock's lower
bound (that consecutive delays add up is deduced, log 2); nothing else changes. -/
def Obligations.DelayResult : Prop :=
  ∀ (s : State) (n : Nat), s.phase ≠ .halted →
    exec (.delay n) s = .next { s with
      env := { s.env with clock := s.env.clock.map (· + n) }
      trace := s.trace ++ [.delayed n] }

/-- R175, R14: `NOW` samples the clock into the register that its step names; at any other position it
writes none, which is the model's choice (log 14; wrapping timestamps: log 6). The clock's lower bound is
the model's (log 2). That `NOW` runs in `BRINGUP` too is the model's choice (log 21). -/
def Obligations.NowResult : Prop :=
  ∀ (s : State), s.phase ≠ .halted →
    exec .now s = .next { s with
      samples :=
        if s.seq = ⟨.acquire, 6, 0⟩ then { s.samples with acqT0 := nextNow s.env }
        else if s.seq = ⟨.poll, 4, 0⟩ then { s.samples with nowS := stamp s.params (nextNow s.env) }
        else s.samples
      env := popNow s.env
      trace := s.trace ++ [.clock (nextNow s.env)] } ∧
    (∀ c, s.env.clock = some c → c ≤ nextNow s.env) ∧ (popNow s.env).clock = some (nextNow s.env)

/-- R175, R176: no operation and no step of the sequencer loses or lowers the clock's bound, so that,
whatever operations are performed between two `NOW`s, the second does not show less than the first, and
after a `DELAY n`, with any operations before and after it, it shows at least `n` more. The clock's lower
bound is the model's (log 2). -/
def Obligations.ClockLaws : Prop :=
  (∀ (i : Instr) (s t : State), exec i s = .next t → ClockKept s.env t.env) ∧
  (∀ (k : Nat) (s t : State), Host.Core.run core k s = .next t → ClockKept s.env t.env) ∧
  (∀ (is : List Instr) (s s1 s2 : State), exec .now s = .next s1 → performAll is s1 = .next s2 →
    nextNow s.env ≤ nextNow s2.env) ∧
  (∀ (n : Nat) (is js : List Instr) (s s1 s2 s3 s4 : State), exec .now s = .next s1 →
    performAll is s1 = .next s2 → exec (.delay n) s2 = .next s3 → performAll js s3 = .next s4 →
    nextNow s.env + n ≤ nextNow s4.env)

/-- R91, R92: `RSTLINE` drives the line and `BUSOPEN` opens the bus, which cannot fail; each adds its item
to the trace. That they do so in `POLLING` too is the model's choice (log 21). -/
def Obligations.RstlineAndBusopenResults : Prop :=
  ∀ (s : State), s.phase ≠ .halted →
    (∀ l, exec (.rstline l) s = .next { s with rstLine := l, trace := s.trace ++ [.rst l] }) ∧
    exec .busopen s = .next { s with busOpen := true, trace := s.trace ++ [.busOpened] }

/-- R23, R69: `EMIT` puts the UID string, the label and `now_s` on the event port; it writes no register. That
it runs in every phase but `HALTED` is the model's choice (log 21). -/
def Obligations.EmitResult : Prop :=
  ∀ (s : State), s.phase ≠ .halted →
    exec .emit s = .next { s with
      trace := s.trace ++ [.emitted (uidString s.answer.uid) s.params.label s.samples.nowS] }

/-- R68: the UID string is the two upper-case hexadecimal digits of each byte, high digit first, colon
separated, in the order received; it has 11 characters and determines the UID. -/
def Obligations.UidStringFaithful : Prop :=
  (∀ b : Byte, ∃ h l, hex2 b = [h, l] ∧ "0123456789ABCDEF".toList[(b >>> 4).toNat]? = some h ∧
    "0123456789ABCDEF".toList[(b &&& 0x0F).toNat]? = some l) ∧
  (∀ u0 u1 u2 u3, uidString ⟨u0, u1, u2, u3⟩ =
    hex2 u0 ++ [':'] ++ hex2 u1 ++ [':'] ++ hex2 u2 ++ [':'] ++ hex2 u3) ∧
  (∀ u, (uidString u).length = 11) ∧ ∀ u u', uidString u = uidString u' → u = u'

/-! ### Card frames -/

/-- R64, R65: `REQA` and `ANTICOLL_CL1` are the framing write and the FIFO writes of their frames; that
the operation of a frame is its encoding by the block is the model's choice (log 15). -/
def Obligations.CardFramesLoadTheFifo : Prop :=
  ∀ (s : State) (p q r : Byte × Byte) (rest : List Answer), s.phase ≠ .halted → s.busOpen = true →
    s.env.answers = .ok p.1 p.2 :: .ok q.1 q.2 :: .ok r.1 r.2 :: rest →
    exec .reqa s = .next { s with
      bus := ⟨addrByte s.params.chip.fifoData.toByte false, 0x26, q.1, q.2⟩
      env := { s.env with answers := .ok r.1 r.2 :: rest }
      trace := s.trace ++ [wrote s.params.chip.bitFraming s.params.chip.bfShort7 p.1 p.2,
        wrote s.params.chip.fifoData 0x26 q.1 q.2] } ∧
    exec .anticollCl1 s = .next { s with
      bus := ⟨addrByte s.params.chip.fifoData.toByte false, 0x20, r.1, r.2⟩
      env := { s.env with answers := rest }
      trace := s.trace ++ [wrote s.params.chip.bitFraming s.params.chip.bfFull p.1 p.2,
        wrote s.params.chip.fifoData 0x93 q.1 q.2, wrote s.params.chip.fifoData 0x20 r.1 r.2] }

/-- R66, R127, R130: an answer is valid exactly if its checksum byte is the XOR of the four UID bytes; any
other checksum byte is a `ChecksumMismatch`. That the operation of an answer loads its registers and runs
the integrity gate is the model's choice (log 16). -/
def Obligations.UidAnswerResult : Prop :=
  (∀ (s : State) (u0 u1 u2 u3 : Byte), s.phase ≠ .halted →
    exec (.uidAnswer u0 u1 u2 u3 (u0 ^^^ u1 ^^^ u2 ^^^ u3)) s = .next { s with
      answer := ⟨⟨u0, u1, u2, u3⟩, u0 ^^^ u1 ^^^ u2 ^^^ u3, u0 ^^^ u1 ^^^ u2 ^^^ u3⟩
      samples := { s.samples with acqOk := true }
      acqState := .valid }) ∧
  (∀ (s : State) (u0 u1 u2 u3 c : Byte), s.phase ≠ .halted → c ≠ u0 ^^^ u1 ^^^ u2 ^^^ u3 →
    ∃ t, exec (.uidAnswer u0 u1 u2 u3 c) s = .next t ∧ t.samples.acqOk = false ∧
      t.acqState = .invalid ∧ t.lastError = .checksumMismatch ∧ t.phase = s.phase ∧
      t.answer = ⟨⟨u0, u1, u2, u3⟩, c, u0 ^^^ u1 ^^^ u2 ^^^ u3⟩ ∧
      t.trace = s.trace ++ [.raised (.checksumMismatch (u0 ^^^ u1 ^^^ u2 ^^^ u3) c)])

/-- R130: a single-bit error anywhere in an accepted answer is rejected; two errors in the same bit
position of two different bytes, UID bytes or one of them the checksum byte, are not detected. -/
def Obligations.ChecksumErrorDetection : Prop :=
  (∀ (u : Uid) (b : Byte), b ∈ singleBits →
    checksum { u with b0 := u.b0 ^^^ b } ≠ checksum u ∧ checksum { u with b1 := u.b1 ^^^ b } ≠ checksum u ∧
    checksum { u with b2 := u.b2 ^^^ b } ≠ checksum u ∧ checksum { u with b3 := u.b3 ^^^ b } ≠ checksum u ∧
    checksum u ≠ checksum u ^^^ b) ∧
  (∀ (u : Uid) (b : Byte),
    checksum { u with b0 := u.b0 ^^^ b, b1 := u.b1 ^^^ b } = checksum u ∧
    checksum { u with b0 := u.b0 ^^^ b, b2 := u.b2 ^^^ b } = checksum u ∧
    checksum { u with b0 := u.b0 ^^^ b, b3 := u.b3 ^^^ b } = checksum u ∧
    checksum { u with b1 := u.b1 ^^^ b, b2 := u.b2 ^^^ b } = checksum u ∧
    checksum { u with b1 := u.b1 ^^^ b, b3 := u.b3 ^^^ b } = checksum u ∧
    checksum { u with b2 := u.b2 ^^^ b, b3 := u.b3 ^^^ b } = checksum u) ∧
  (∀ (u : Uid) (b : Byte),
    checksum { u with b0 := u.b0 ^^^ b } = checksum u ^^^ b ∧
    checksum { u with b1 := u.b1 ^^^ b } = checksum u ^^^ b ∧
    checksum { u with b2 := u.b2 ^^^ b } = checksum u ^^^ b ∧
    checksum { u with b3 := u.b3 ^^^ b } = checksum u ^^^ b)

/-! ### Bring-up -/

/-- R90, R93 to R99: with a scratch register that reads back 0x8D and a version other than 0x00 and 0xFF,
`INIT` performs its step list, one write for each configuration entry, and ends in `POLLING`. That the link
is empty then (log 23) and the clock's lower bound (log 2) are the model's. That `INIT` runs so from any
sequencer position in `BRINGUP` is the model's choice (log 11). -/
def Obligations.InitSucceeds : Prop :=
  ∀ (s : State) (a b c d e f : Byte × Byte) (cfg : List (Byte × Byte)) (rest : List Answer),
    s.phase = .bringup → cfg.length = s.params.chip.configWrites.length →
    s.env.answers = .ok a.1 a.2 :: .ok b.1 b.2 :: .ok c.1 c.2 :: .ok d.1 d.2 ::
      (cfg.map (fun r => Answer.ok r.1 r.2) ++ .ok e.1 e.2 :: .ok f.1 f.2 :: rest) →
    b.2 = 0x8D → d.2 ≠ 0x00 → d.2 ≠ 0xFF →
    exec .init s = .next { s with
      phase := .polling
      seq := ⟨.poll, 1, 0⟩
      link := none
      rstLine := true
      busOpen := true
      bus := ⟨addrByte s.params.chip.txControl.toByte false, e.2 ||| 0x03, f.1, f.2⟩
      samples := { s.samples with probeS := 0x8D, verS := d.2, txcS := e.2 }
      env := { s.env with answers := rest, clock := s.env.clock.map (· + 200) }
      trace := s.trace ++
        ([.rst false, .delayed 100, .rst true, .delayed 50, .busOpened,
          wrote s.params.chip.tMode 0x8D a.1 a.2, didRead s.params s.params.chip.tMode b.1 0x8D,
          wrote s.params.chip.command s.params.chip.cmdSoftReset c.1 c.2, .delayed 50,
          didRead s.params s.params.chip.version d.1 d.2] ++
        (List.zipWith (fun w r => wrote w.1 w.2 r.1 r.2) s.params.chip.configWrites cfg ++
        [didRead s.params s.params.chip.txControl e.1 e.2,
          wrote s.params.chip.txControl (e.2 ||| 0x03) f.1 f.2])) }

/-- R94, R168: any value but 0x8D read back ends bring-up at once with `TransportUnresponsive`; the attempts
(log 7), the emptied link (log 23) and the clock's lower bound (log 2) are the model's. That `INIT` runs so
from any sequencer position in `BRINGUP` is the model's choice (log 11). -/
def Obligations.InitSelfTestFailureHalts : Prop :=
  ∀ (s : State) (a b : Byte × Byte) (rest : List Answer), s.phase = .bringup → s.retriesLeft = 0 →
    s.env.answers = .ok a.1 a.2 :: .ok b.1 b.2 :: rest → b.2 ≠ 0x8D →
    exec .init s = .next { s with
      phase := .halted
      seq := ⟨.none, 0, 0⟩
      link := none
      rstLine := true
      busOpen := true
      lastError := .transportUnresponsive
      haltCause := .transportUnresponsive
      bus := ⟨addrByte s.params.chip.tMode.toByte true, s.params.dummy, b.1, b.2⟩
      samples := { s.samples with probeS := b.2 }
      env := { s.env with answers := rest, clock := s.env.clock.map (· + 150) }
      trace := s.trace ++ [.rst false, .delayed 100, .rst true, .delayed 50, .busOpened,
        wrote s.params.chip.tMode 0x8D a.1 a.2, didRead s.params s.params.chip.tMode b.1 b.2,
        .raised (.transportUnresponsive b.2)] }

/-- R96, R168: version 0x00 or 0xFF ends bring-up with `ChipNotDetected`, and no configuration is written;
the attempts (log 7), the emptied link (log 23) and the clock's lower bound (log 2) are the model's. That
`INIT` runs so from any sequencer position in `BRINGUP` is the model's choice (log 11). -/
def Obligations.InitWithoutChipHalts : Prop :=
  ∀ (s : State) (a b c d : Byte × Byte) (rest : List Answer), s.phase = .bringup →
    s.retriesLeft = 0 →
    s.env.answers = .ok a.1 a.2 :: .ok b.1 b.2 :: .ok c.1 c.2 :: .ok d.1 d.2 :: rest →
    b.2 = 0x8D → (d.2 = 0x00 ∨ d.2 = 0xFF) →
    exec .init s = .next { s with
      phase := .halted
      seq := ⟨.none, 0, 0⟩
      link := none
      rstLine := true
      busOpen := true
      lastError := .chipNotDetected
      haltCause := .chipNotDetected
      bus := ⟨addrByte s.params.chip.version.toByte true, s.params.dummy, d.1, d.2⟩
      samples := { s.samples with probeS := 0x8D, verS := d.2 }
      env := { s.env with answers := rest, clock := s.env.clock.map (· + 200) }
      trace := s.trace ++ [.rst false, .delayed 100, .rst true, .delayed 50, .busOpened,
        wrote s.params.chip.tMode 0x8D a.1 a.2, didRead s.params s.params.chip.tMode b.1 0x8D,
        wrote s.params.chip.command s.params.chip.cmdSoftReset c.1 c.2, .delayed 50,
        didRead s.params s.params.chip.version d.1 d.2, .raised (.chipNotDetected d.2)] }

/-- R99, R101, R168: whatever the environment answers, `INIT` ends in `POLLING` or in `HALTED` with one of
its three errors, the line high, the bus open and the Presence State untouched. That the link is empty then
is the model's choice (log 23). That `INIT` runs so from any sequencer position in `BRINGUP` is the model's
choice (log 11). -/
def Obligations.InitAlwaysEnds : Prop :=
  ∀ (s : State), s.phase = .bringup →
    ∃ t, exec .init s = .next t ∧ t.rstLine = true ∧ t.busOpen = true ∧ t.pres = s.pres ∧
      t.answer = s.answer ∧ t.acqState = s.acqState ∧ t.params = s.params ∧ t.link = none ∧
      ((t.phase = .polling ∧ t.seq = ⟨.poll, 1, 0⟩ ∧ t.haltCause = s.haltCause) ∨
       (t.phase = .halted ∧ t.seq = ⟨.none, 0, 0⟩ ∧ t.haltCause = t.lastError ∧
        (t.lastError = .transportError ∨ t.lastError = .transportUnresponsive ∨
          t.lastError = .chipNotDetected)))

/-- R55 (P1), (P2): a chip that stores the scratch value, shows a version other than 0x00 and 0xFF and
never fails on the bus is brought up. -/
def Obligations.WorkingChipIsBroughtUp : Prop :=
  ∀ (s t : State), s.phase = .bringup → exec .init s = .next t →
    (∀ ev ∈ t.trace.drop s.trace.length, isBusFailure ev = false ∧
      ∀ r0 r1, (ev = didRead s.params s.params.chip.tMode r0 r1 → r1 = 0x8D) ∧
        (ev = didRead s.params s.params.chip.version r0 r1 → r1 ≠ 0x00 ∧ r1 ≠ 0xFF)) →
    t.phase = .polling

/-- D24, R7 `INIT_RETRY`: while attempts are left, a failed attempt is followed by a delay and a new one
from step 1a; the counter, the delay and that `last_error` keeps the failed attempt's code are the model's
choice (log 7), and so is the emptied link (log 23). The clock's lower bound is the model's (log 2). That
`INIT` runs so from any sequencer position in `BRINGUP` is the model's choice (log 11). -/
def Obligations.FailedInitIsRetried : Prop :=
  ∀ (s t : State) (e : Err) (n : Nat), s.phase = .bringup → s.retriesLeft = n + 1 →
    runSteps initSteps s = .raised e t →
    exec .init s = exec .init { t with
      retriesLeft := n
      seq := ⟨.init, 1, 0⟩
      link := none
      env := { t.env with clock := t.env.clock.map (· + t.params.retryDelay) }
      trace := t.trace ++ [.delayed t.params.retryDelay] }

/-- R90, R140: `INIT` has a meaning only in `BRINGUP` and `POLL` only in `POLLING`; that it is refused
elsewhere is the model's choice (log 18). -/
def Obligations.RoutinesBelongToTheirPhase : Prop :=
  ∀ (s : State), (s.phase = .polling → exec .init s = .refused .wrongPhase) ∧
    (s.phase = .bringup → exec .poll s = .refused .wrongPhase)

/-! ### The presence probe -/

/-- R111 to R118: `DETECT` on a bus that answers: seven transactions and one delay in order, and the result
is the receive-complete flag of the one sample. That it runs in every phase but `HALTED` is the model's
choice (log 18). The clock's lower bound is the model's (log 2). -/
def Obligations.DetectResult : Prop :=
  ∀ (s : State) (a b c d e f g : Byte × Byte) (rest : List Answer), s.phase ≠ .halted →
    s.busOpen = true →
    s.env.answers = .ok a.1 a.2 :: .ok b.1 b.2 :: .ok c.1 c.2 :: .ok d.1 d.2 :: .ok e.1 e.2 ::
      .ok f.1 f.2 :: .ok g.1 g.2 :: rest →
    exec .detect s = .next { s with
      bus := ⟨addrByte s.params.chip.command.toByte false, s.params.chip.cmdIdle, g.1, g.2⟩
      samples := { s.samples with
        irqS := f.2
        detS := if f.2 &&& s.params.chip.irqRx ≠ 0 then .present else .absent }
      env := { s.env with answers := rest, clock := s.env.clock.map (· + 25) }
      trace := s.trace ++
        [wrote s.params.chip.comIrq s.params.chip.irqClear a.1 a.2,
          wrote s.params.chip.bitFraming s.params.chip.bfShort7 b.1 b.2,
          wrote s.params.chip.fifoData 0x26 c.1 c.2,
          wrote s.params.chip.command s.params.chip.cmdTransceive d.1 d.2,
          wrote s.params.chip.bitFraming (s.params.chip.bfShort7 ||| s.params.chip.bfStart) e.1 e.2,
          .delayed 25, didRead s.params s.params.chip.comIrq f.1 f.2,
          wrote s.params.chip.command s.params.chip.cmdIdle g.1 g.2] }

/-- R118, R129, R168, R166: a failure of any transaction stops the routine there. `DETECT`: `bus_fault`.
`ACQUIRE`: `acq_ok = 0` and `acq_state` kept, which is `IDLE` in the seven writes, `SENT_REQUEST` at a poll
and `VALIDATING` after it. `INIT` with no attempt left (log 7): the block halts, with the lines and the
Presence State as they were. The failed transaction is the last, and its raise the last item. That `DETECT`
and `ACQUIRE` run in every phase but `HALTED` is the model's choice (log 18). -/
def Obligations.RoutinesStopAtABusFailure : Prop :=
  (∀ (s : State) (oks : List (Byte × Byte)) (rest : List Answer), s.phase ≠ .halted →
    s.busOpen = true → oks.length < 7 →
    s.env.answers = oks.map (fun r => Answer.ok r.1 r.2) ++ .fail :: rest →
    ∃ t b, exec .detect s = .next t ∧ t.samples.detS = .busFault ∧ t.lastError = .transportError ∧
      t.env.answers = rest ∧ transactions t.trace = transactions s.trace + oks.length + 1 ∧
      t.trace.getLast? = some (.raised (.transportError b))) ∧
  (∀ (s : State) (oks : List (Byte × Byte)) (rest : List Answer), s.phase ≠ .halted →
    s.busOpen = true → oks.length < 7 →
    s.env.answers = oks.map (fun r => Answer.ok r.1 r.2) ++ .fail :: rest →
    ∃ t b, exec .acquire s = .next t ∧ t.samples.acqOk = false ∧ t.acqState = .idle ∧
      t.lastError = .transportError ∧ t.answer = s.answer ∧ t.env.answers = rest ∧
      transactions t.trace = transactions s.trace + oks.length + 1 ∧
      t.trace.getLast? = some (.raised (.transportError b))) ∧
  (∀ (s : State) (oks polls tail : List (Byte × Byte)) (i : Byte × Byte) (rest : List Answer) (d0 : Nat)
      (ds dr : List Nat), s.phase ≠ .halted → s.busOpen = true → oks.length = 7 →
    (∀ r ∈ polls, NoFlag s.params r) → s.env.ticks = d0 :: (ds ++ dr) → ds.length = polls.length + 1 →
    ds.sum + polls.length < 100 →
    (s.env.answers = oks.map (fun r => Answer.ok r.1 r.2) ++
        (polls.map (fun r => Answer.ok r.1 r.2) ++ .fail :: rest) →
      ∃ t b, exec .acquire s = .next t ∧ t.samples.acqOk = false ∧ t.acqState = .sentRequest ∧
        t.lastError = .transportError ∧ t.answer = s.answer ∧ t.env.answers = rest ∧
        transactions t.trace = transactions s.trace + 7 + polls.length + 1 ∧
        t.trace.getLast? = some (.raised (.transportError b))) ∧
    (i.2 &&& s.params.chip.irqRx ≠ 0 → tail.length < 7 →
      (∀ er, tail[0]? = some er → er.2 &&& 0x13 = 0) → (∀ lv, tail[1]? = some lv → 5 ≤ lv.2.toNat) →
      s.env.answers = oks.map (fun r => Answer.ok r.1 r.2) ++
        (polls.map (fun r => Answer.ok r.1 r.2) ++ .ok i.1 i.2 ::
          (tail.map (fun r => Answer.ok r.1 r.2) ++ .fail :: rest)) →
      ∃ t b, exec .acquire s = .next t ∧ t.samples.acqOk = false ∧ t.acqState = .validating ∧
        t.lastError = .transportError ∧ t.answer.chkRx = s.answer.chkRx ∧
        t.answer.chkCalc = s.answer.chkCalc ∧ (tail.length ≤ 5 → t.answer.uid.b3 = s.answer.uid.b3) ∧
        (tail.length ≤ 2 → t.answer = s.answer) ∧ t.env.answers = rest ∧
        transactions t.trace = transactions s.trace + 7 + polls.length + 1 + tail.length + 1 ∧
        t.trace.getLast? = some (.raised (.transportError b)))) ∧
  (∀ (s : State) (oks : List (Byte × Byte)) (rest : List Answer), s.phase = .bringup →
    s.retriesLeft = 0 → oks.length < 6 + s.params.chip.configWrites.length →
    (∀ r, oks[1]? = some r → r.2 = 0x8D) → (∀ r, oks[3]? = some r → r.2 ≠ 0x00 ∧ r.2 ≠ 0xFF) →
    s.env.answers = oks.map (fun r => Answer.ok r.1 r.2) ++ .fail :: rest →
    ∃ t b, exec .init s = .next t ∧ t.phase = .halted ∧ t.seq = ⟨.none, 0, 0⟩ ∧
      t.haltCause = .transportError ∧ t.lastError = .transportError ∧ t.rstLine = true ∧
      t.busOpen = true ∧ t.pres = s.pres ∧ t.env.answers = rest ∧
      transactions t.trace = transactions s.trace + oks.length + 1 ∧
      t.trace.getLast? = some (.raised (.transportError b)))

/-- R110, R118: with the bus open `DETECT` always completes; it writes no state but `irq_s`, `det_s`, the
transport registers, `last_error`, the trace and the environment. That it runs in every phase but `HALTED`
is the model's choice (log 18). -/
def Obligations.DetectFrame : Prop :=
  ∀ (s : State), s.phase ≠ .halted → s.busOpen = true →
    ∃ t, exec .detect s = .next t ∧
      t = { s with
        bus := t.bus
        samples := { s.samples with irqS := t.samples.irqS, detS := t.samples.detS }
        lastError := t.lastError
        trace := t.trace
        env := t.env } ∧
      (t.samples.detS ≠ .busFault → t.lastError = s.lastError ∧
        transactions t.trace = transactions s.trace + 7) ∧
      (t.samples.detS = .busFault → t.lastError = .transportError)

/-! ### The acquisition -/

/-- R119 to R127, R129: `ACQUIRE` of an intact answer that arrives after any number of polls before the
deadline: its transactions and clock samples in order, the UID and its checksum in their registers, `VALID`.
That it runs in every phase but `HALTED` is the model's choice (log 18). The clock's lower bound is the
model's (log 2). -/
def Obligations.AcquireResult : Prop :=
  ∀ (s : State) (a b c d e f g i er lv u0 u1 u2 u3 k : Byte × Byte) (polls : List (Byte × Byte))
    (rest : List Answer) (d0 d1 : Nat) (ds dr : List Nat) (t0 t1 : Nat), s.phase ≠ .halted →
    s.busOpen = true → s.params.acqIdleAfter = false → (∀ r ∈ polls, NoFlag s.params r) →
    s.env.answers = .ok a.1 a.2 :: .ok b.1 b.2 :: .ok c.1 c.2 :: .ok d.1 d.2 :: .ok e.1 e.2 ::
      .ok f.1 f.2 :: .ok g.1 g.2 :: (polls.map (fun r => Answer.ok r.1 r.2) ++
      .ok i.1 i.2 :: .ok er.1 er.2 :: .ok lv.1 lv.2 ::
      .ok u0.1 u0.2 :: .ok u1.1 u1.2 :: .ok u2.1 u2.2 :: .ok u3.1 u3.2 :: .ok k.1 k.2 :: rest) →
    s.env.ticks = d0 :: (ds ++ d1 :: dr) → ds.length = polls.length →
    t0 = clockFloor s.env + d0 → t1 = t0 + ds.sum + polls.length + d1 → t1 - t0 < 100 →
    i.2 &&& s.params.chip.irqRx ≠ 0 → er.2 &&& 0x13 = 0 → 5 ≤ lv.2.toNat →
    k.2 = u0.2 ^^^ u1.2 ^^^ u2.2 ^^^ u3.2 →
    exec .acquire s = .next { s with
      acqState := .valid
      answer := ⟨⟨u0.2, u1.2, u2.2, u3.2⟩, k.2, k.2⟩
      samples := { s.samples with acqT0 := t0, irqS := i.2, errS := er.2, lvlS := lv.2, acqOk := true }
      bus := ⟨addrByte s.params.chip.fifoData.toByte true, s.params.dummy, k.1, k.2⟩
      env := { s.env with answers := rest, ticks := dr, clock := some t1 }
      trace := s.trace ++
        ([wrote s.params.chip.comIrq s.params.chip.irqClear a.1 a.2,
          wrote s.params.chip.fifoLevel s.params.chip.fifoFlush b.1 b.2,
          wrote s.params.chip.bitFraming s.params.chip.bfFull c.1 c.2,
          wrote s.params.chip.fifoData 0x93 d.1 d.2, wrote s.params.chip.fifoData 0x20 e.1 e.2,
          wrote s.params.chip.command s.params.chip.cmdTransceive f.1 f.2,
          wrote s.params.chip.bitFraming (s.params.chip.bfFull ||| s.params.chip.bfStart) g.1 g.2,
          .clock t0] ++ (lapEvents s.params t0 ds polls ++
        [.clock t1, didRead s.params s.params.chip.comIrq i.1 i.2,
          didRead s.params s.params.chip.error er.1 er.2,
          didRead s.params s.params.chip.fifoLevel lv.1 lv.2,
          didRead s.params s.params.chip.fifoData u0.1 u0.2,
          didRead s.params s.params.chip.fifoData u1.1 u1.2,
          didRead s.params s.params.chip.fifoData u2.1 u2.2,
          didRead s.params s.params.chip.fifoData u3.1 u3.2,
          didRead s.params s.params.chip.fifoData k.1 k.2])) }

/-- R123: the ways the poll loop fails, after any number of polls without a flag, each with `TIMED_OUT` and
`Timeout`, and nothing read after it: the timer flag in a sample without receive-complete, and the deadline,
after which not even a sample is taken. `t1` is the value of the last deadline test. That it can be the
first, so that no sample is taken at all, is the model's choice (log 29), and so is that `ACQUIRE` runs in
every phase but `HALTED` (log 18). -/
def Obligations.AcquireTimesOut : Prop :=
  ∀ (s : State) (oks polls : List (Byte × Byte)) (rest : List Answer) (d0 d1 : Nat) (ds dr : List Nat)
    (t0 t1 : Nat), s.phase ≠ .halted → s.busOpen = true → s.params.acqIdleAfter = false →
    oks.length = 7 → (∀ r ∈ polls, NoFlag s.params r) →
    s.env.answers = oks.map (fun r => Answer.ok r.1 r.2) ++
      (polls.map (fun r => Answer.ok r.1 r.2) ++ rest) →
    s.env.ticks = d0 :: (ds ++ d1 :: dr) → ds.length = polls.length → ds.sum + polls.length ≤ 100 →
    t0 = clockFloor s.env + d0 → t1 = t0 + ds.sum + polls.length + d1 →
    (100 ≤ t1 - t0 → ∃ t, exec .acquire s = .next t ∧ t.samples.acqOk = false ∧
      t.acqState = .timedOut ∧ t.lastError = .timeout ∧ t.samples.acqT0 = t0 ∧ t.env.answers = rest ∧
      transactions t.trace = transactions s.trace + 7 + polls.length ∧ t.answer = s.answer ∧
      t.trace.getLast? = some (.raised .timeout)) ∧
    (∀ (i : Byte × Byte) (rest' : List Answer), t1 - t0 < 100 → rest = .ok i.1 i.2 :: rest' →
      i.2 &&& s.params.chip.irqRx = 0 → i.2 &&& s.params.chip.irqTimer ≠ 0 →
      ∃ t, exec .acquire s = .next t ∧ t.samples.acqOk = false ∧ t.acqState = .timedOut ∧
        t.lastError = .timeout ∧ t.samples.irqS = i.2 ∧ t.env.answers = rest' ∧
        transactions t.trace = transactions s.trace + 7 + polls.length + 1 ∧ t.answer = s.answer ∧
        t.trace.getLast? = some (.raised .timeout))

/-- R124, R125, R127, R165, R167 (c): after receive-complete (also with the timer flag set, R167 (b)), after
any number of polls, the checks run in the order error register, level, checksum; the first that fails is
reported, with its info as the last item of the trace, and nothing is read after it. That it runs in every
phase but `HALTED` is the model's choice (log 18). -/
def Obligations.AcquireChecksInOrder : Prop :=
  ∀ (s : State) (oks polls : List (Byte × Byte)) (i er : Byte × Byte) (rest : List Answer) (d0 : Nat)
    (ds dr : List Nat), s.phase ≠ .halted → s.busOpen = true → s.params.acqIdleAfter = false →
    oks.length = 7 → (∀ r ∈ polls, NoFlag s.params r) →
    s.env.answers = oks.map (fun r => Answer.ok r.1 r.2) ++
      (polls.map (fun r => Answer.ok r.1 r.2) ++ .ok i.1 i.2 :: .ok er.1 er.2 :: rest) →
    s.env.ticks = d0 :: (ds ++ dr) → ds.length = polls.length + 1 → ds.sum + polls.length < 100 →
    i.2 &&& s.params.chip.irqRx ≠ 0 →
    (er.2 &&& 0x13 ≠ 0 → ∃ t, exec .acquire s = .next t ∧ t.samples.acqOk = false ∧
      t.acqState = .invalid ∧ t.lastError = .frameError ∧ t.samples.errS = er.2 ∧
      t.samples.lvlS = s.samples.lvlS ∧ t.answer = s.answer ∧ t.env.answers = rest ∧
      transactions t.trace = transactions s.trace + 7 + polls.length + 2 ∧
      t.trace.getLast? = some (.raised (.frameError er.2))) ∧
    (∀ (lv : Byte × Byte) (rest' : List Answer), er.2 &&& 0x13 = 0 → rest = .ok lv.1 lv.2 :: rest' →
      lv.2.toNat < 5 → ∃ t, exec .acquire s = .next t ∧ t.samples.acqOk = false ∧
        t.acqState = .invalid ∧ t.lastError = .shortFrame ∧ t.samples.lvlS = lv.2 ∧
        t.answer = s.answer ∧ t.env.answers = rest' ∧
        transactions t.trace = transactions s.trace + 7 + polls.length + 3 ∧
        t.trace.getLast? = some (.raised (.shortFrame lv.2))) ∧
    (∀ (lv u0 u1 u2 u3 k : Byte × Byte) (rest' : List Answer), er.2 &&& 0x13 = 0 →
      rest = .ok lv.1 lv.2 :: .ok u0.1 u0.2 :: .ok u1.1 u1.2 :: .ok u2.1 u2.2 :: .ok u3.1 u3.2 ::
        .ok k.1 k.2 :: rest' → 5 ≤ lv.2.toNat → k.2 ≠ u0.2 ^^^ u1.2 ^^^ u2.2 ^^^ u3.2 →
      ∃ t, exec .acquire s = .next t ∧ t.samples.acqOk = false ∧ t.acqState = .invalid ∧
        t.lastError = .checksumMismatch ∧
        t.answer = ⟨⟨u0.2, u1.2, u2.2, u3.2⟩, k.2, u0.2 ^^^ u1.2 ^^^ u2.2 ^^^ u3.2⟩ ∧
        t.env.answers = rest' ∧ transactions t.trace = transactions s.trace + 7 + polls.length + 8 ∧
        t.trace.getLast? =
          some (.raised (.checksumMismatch (u0.2 ^^^ u1.2 ^^^ u2.2 ^^^ u3.2) k.2)))

/-- R110, R129: with the bus open `ACQUIRE` always completes, in a bounded number of transactions (7 writes,
at most 100 polls, 7 reads, and the idle write of `ACQ_IDLE_AFTER`); the Presence State, the mode and the
lines are untouched. That it runs in every phase but `HALTED` is the model's choice (log 18). -/
def Obligations.AcquireFrame : Prop :=
  ∀ (s : State), s.phase ≠ .halted → s.busOpen = true →
    ∃ t, exec .acquire s = .next t ∧
      t = { s with
        bus := t.bus
        answer := t.answer
        samples := { t.samples with
          probeS := s.samples.probeS, verS := s.samples.verS, txcS := s.samples.txcS
          nowS := s.samples.nowS, detS := s.samples.detS }
        acqState := t.acqState
        lastError := t.lastError
        trace := t.trace
        env := t.env } ∧
      transactions t.trace ≤ transactions s.trace + 114 + (if s.params.acqIdleAfter then 1 else 0) ∧
      (t.samples.acqOk = true → t.lastError = s.lastError) ∧
      (t.samples.acqOk = false → t.lastError ≠ .none)

/-- R129: on the `VALID` path `ACQUIRE` performs `7 + k + 7` transactions with `1 <= k <= 100`. -/
def Obligations.AcquireTransactionCount : Prop :=
  ∀ (s t : State), s.params.acqIdleAfter = false → exec .acquire s = .next t →
    t.samples.acqOk = true →
    ∃ k, 1 ≤ k ∧ k ≤ 100 ∧ transactions t.trace = transactions s.trace + 7 + k + 7

/-- R7 `ACQ_IDLE_AFTER`, D18: under the parameter, an `ACQUIRE` that has not raised a `TransportError` is
the same one followed by one idle write; its place and its failure are the model's choice (log 8). That
`ACQUIRE` runs in every phase but `HALTED` is the model's choice (log 18). -/
def Obligations.AcquireIdleAfterAddsOneWrite : Prop :=
  ∀ (s t : State) (r0 r1 : Byte), s.params.acqIdleAfter = true →
    exec .acquire { s with params := { s.params with acqIdleAfter := false } } = .next t →
    (∀ b, t.trace.getLast? ≠ some (.raised (.transportError b))) → nextAnswer t.env = .ok r0 r1 →
    exec .acquire s = .next { t with
      params := s.params
      bus := ⟨addrByte s.params.chip.command.toByte false, s.params.chip.cmdIdle, r0, r1⟩
      env := popAnswer t.env
      trace := t.trace ++ [wrote s.params.chip.command s.params.chip.cmdIdle r0 r1] }

/-- R127, R203: no acquisition succeeds without its checksum passing. -/
def Obligations.AcquireOkMeansChecked : Prop :=
  ∀ (s t : State), exec .acquire s = .next t → t.samples.acqOk = true →
    t.acqState = .valid ∧ t.answer.chkRx = checksum t.answer.uid ∧ t.answer.chkCalc = t.answer.chkRx

/-- R205: the deadline, not the count, ends the poll loop: the model's bound on the laps (log 20) is never
reached, so more laps change nothing. The clock's lower bound is the model's (log 2). -/
def Obligations.DeadlineEndsThePollLoop : Prop :=
  ∀ (n : Nat) (s : State) (c : Nat), acquireLaps ≤ n → s.env.clock = some c → s.samples.acqT0 ≤ c →
    acquireLoop n s = acquireLoop acquireLaps s

/-! ### The polling cycle -/

/-- R140, R142, R144, R152, R153, R157, R169: with the bus open a cycle always completes and the next one
follows; `presence` becomes `PRESENT` exactly on a detection and `ABSENT` exactly on a failed one. That the
link is empty after the cycle is the model's choice (log 23). That `POLL` runs so from any sequencer
position in `POLLING` is the model's choice (log 11). -/
def Obligations.PollCompletes : Prop :=
  ∀ (s : State), s.phase = .polling → s.busOpen = true →
    ∃ t, exec .poll s = .next t ∧ t.phase = .polling ∧ t.seq = ⟨.poll, 1, 0⟩ ∧ t.link = none ∧
      t.busOpen = true ∧ t.rstLine = s.rstLine ∧ t.haltCause = s.haltCause ∧ t.params = s.params ∧
      t.trace.getLast? = some (.delayed 500) ∧
      t.pres.presence = (match t.samples.detS with
        | .busFault => s.pres.presence
        | .absent => .absent
        | .present => .present)

/-- R152, R153, R155, R157: a cycle without a rising edge is `DETECT` and the delay; no acquisition, no
event, and only a falling edge writes the Presence State. That the link is empty after the cycle is the
model's choice (log 23). The clock's lower bound is the model's (log 2). That `POLL` runs so from any
sequencer position in `POLLING` is the model's choice (log 11). -/
def Obligations.PollWithoutRisingEdge : Prop :=
  ∀ (s d : State), s.phase = .polling → exec .detect s = .next d →
    (d.samples.detS ≠ .present ∨ s.pres.presence = .present) →
    exec .poll s = .next { d with
      pres := if d.samples.detS = .absent then { s.pres with presence := .absent } else s.pres
      env := { d.env with clock := d.env.clock.map (· + 500) }
      trace := d.trace ++ [.delayed 500]
      seq := ⟨.poll, 1, 0⟩
      link := none }

/-- R143, R144, R151: a rising edge whose acquisition fails: no clock sample, no event, and the card counts
as present. That the link is empty after the cycle is the model's choice (log 23). The clock's lower bound
is the model's (log 2). That `POLL` runs so from any sequencer position in `POLLING` is the model's choice
(log 11). -/
def Obligations.PollFailedAcquisition : Prop :=
  ∀ (s d a : State), s.phase = .polling → exec .detect s = .next d → d.samples.detS = .present →
    s.pres.presence = .absent → exec .acquire d = .next a → a.samples.acqOk = false →
    exec .poll s = .next { a with
      pres := { s.pres with presence := .present }
      env := { a.env with clock := a.env.clock.map (· + 500) }
      trace := a.trace ++ [.delayed 500]
      seq := ⟨.poll, 1, 0⟩
      link := none }

/-- R143 to R150: a rising edge whose acquisition succeeds: one clock sample, and an event exactly if
nothing has been reported, or another UID, or the same one at least 5000 ms ago. `nowS` is `now_s` and
`window` is `now_s - last_ts`: as they are, or modulo 2^n under `TS_BITS = n` (R7, D9; that the event's
timestamp wraps with `now_s` and the trace item of the sample does not is log 6). That the link is empty
after the cycle is the model's choice (log 23). The clock's lower bound is the model's (log 2). That `POLL`
runs so from any sequencer position in `POLLING` is the model's choice (log 11). -/
def Obligations.PollReportsNewCard : Prop :=
  ∀ (s d a : State) (nowS window : Nat), s.phase = .polling → exec .detect s = .next d →
    d.samples.detS = .present → s.pres.presence = .absent → exec .acquire d = .next a →
    a.samples.acqOk = true →
    ((s.params.tsBits = none ∧ nowS = nextNow a.env ∧ window = nowS - s.pres.lastTs) ∨
      (∃ n, s.params.tsBits = some n ∧ nowS = nextNow a.env % 2 ^ n ∧ window < 2 ^ n ∧
        (window + s.pres.lastTs) % 2 ^ n = nowS)) →
    ((s.pres.lastUid = none ∨ s.pres.lastUid ≠ some a.answer.uid ∨ 5000 ≤ window) →
      exec .poll s = .next { a with
        samples := { a.samples with nowS := nowS }
        pres := ⟨.present, some a.answer.uid, nowS⟩
        env := { popNow a.env with clock := some (nextNow a.env + 500) }
        trace := a.trace ++ [.clock (nextNow a.env),
          .emitted (uidString a.answer.uid) a.params.label nowS, .delayed 500]
        seq := ⟨.poll, 1, 0⟩
        link := none }) ∧
    ((s.pres.lastUid = some a.answer.uid ∧ window < 5000) →
      exec .poll s = .next { a with
        samples := { a.samples with nowS := nowS }
        pres := { s.pres with presence := .present }
        env := { popNow a.env with clock := some (nextNow a.env + 500) }
        trace := a.trace ++ [.clock (nextNow a.env), .delayed 500]
        seq := ⟨.poll, 1, 0⟩
        link := none })

/-! ### Whole-machine rules -/

/-- R168: in `HALTED` the block performs no step and no operation; the model stops there (log 17). -/
def Obligations.HaltedPerformsNothing : Prop :=
  ∀ (s : State), s.phase = .halted → step s = .fault .halted ∧ ∀ i, exec i s = .fault .halted

/-- The invariant holds at reset. -/
def Obligations.ResetMeetsInvariant : Prop := Inv State.reset

/-- Every step keeps the invariant: mode and position agree, the bus is open and the line high in `POLLING`
(R27 (d)), an event comes only from a checked answer (R27 (a)), and the stored last report is the last event
(R27 (c)). That the link is empty outside the subroutines is the model's choice (log 23). The clock's lower
bound is the model's (log 2). -/
def Obligations.StepKeepsInvariant : Prop :=
  ∀ (s t : State), Inv s → step s = .next t → Inv t

/-- R55: whether the block has a next step never depends on the environment: outside `HALTED` it has
one. -/
def Obligations.InvariantStepAnswers : Prop :=
  ∀ (s : State), Inv s → s.phase ≠ .halted → ∃ t, step s = .next t

/-- R11: the only changes of the mode; that `INIT` fails only with no attempt left is the model's choice
(log 7). -/
def Obligations.PhaseTransitions : Prop :=
  ∀ (s t : State), Inv s → step s = .next t → t.phase ≠ s.phase →
    s.phase = .bringup ∧ ((t.phase = .polling ∧ s.seq = ⟨.init, 7, 0⟩) ∨
      (t.phase = .halted ∧ s.retriesLeft = 0 ∧ t.haltCause = t.lastError))

/-- R27 (b), R18: the only changes of `presence`. -/
def Obligations.PresenceTransitions : Prop :=
  ∀ (s t : State), Inv s → step s = .next t → t.pres.presence ≠ s.pres.presence →
    (s.pres.presence = .absent ∧ s.samples.detS = .present ∧ s.seq = ⟨.poll, 7, 0⟩) ∨
    (s.pres.presence = .present ∧ s.samples.detS = .absent ∧ s.seq = ⟨.poll, 2, 0⟩)

/-- R27 (a), R27 (c), R203: an event is emitted only from a checked answer, and it is the only step that
changes the stored last report, to what was emitted. -/
def Obligations.ReportsComeFromCheckedCards : Prop :=
  ∀ (s t : State), Inv s → step s = .next t →
    (reports t.trace = reports s.trace ∧ t.pres.lastUid = s.pres.lastUid ∧
      t.pres.lastTs = s.pres.lastTs) ∨
    (CardChecked s ∧
      reports t.trace = reports s.trace ++
        [(uidString s.answer.uid, s.params.label, s.samples.nowS)] ∧
      t.pres.lastUid = some s.answer.uid ∧ t.pres.lastTs = s.samples.nowS)

/-- R17, R16, R26, R23: the sequencer's own steps write the reset line only in `INIT` step 1, change the bus
handle only in `INIT` step 2, to open, write the Presence State only in `POLL`, never change a parameter and
never take back an item of the trace. -/
def Obligations.OwnershipOfTheOutputs : Prop :=
  ∀ (s t : State), s.ops = [] → step s = .next t →
    (t.rstLine ≠ s.rstLine → s.seq.routine = .init ∧ s.seq.num = 1) ∧
    (t.busOpen ≠ s.busOpen → s.seq = ⟨.init, 2, 0⟩ ∧ t.busOpen = true) ∧ (t.pres ≠ s.pres → s.seq.routine = .poll) ∧
    t.params = s.params ∧ s.trace <+: t.trace

/-! ### The routines are their steps -/

/-- R12, D7, log 20: `INIT` as one operation is the run of its steps, from step 1a to the mode it ends in. -/
def Obligations.StepsMakeInit : Prop :=
  ∀ (s : State), s.phase = .bringup → s.seq = ⟨.init, 1, 0⟩ → s.link = none → s.ops = [] →
    ∃ k, Host.Core.run core k s = exec .init s

/-- R12, D7, log 20: `DETECT` called as a subroutine is `DETECT` as one operation, then the return;
that the link is empty after it is the model's choice (log 23). -/
def Obligations.StepsMakeDetect : Prop :=
  ∀ (s t : State) (back : Pos), s.phase ≠ .halted → s.seq = ⟨.detect, 1, 0⟩ → s.link = some back →
    s.ops = [] → s.busOpen = true → exec .detect s = .next t →
    ∃ k, Host.Core.run core k s = .next { t with seq := back, link := none }

/-- R12, D7, log 20: `POLL` as one operation is the run of its steps and of the subroutines it calls, through
one cycle. -/
def Obligations.StepsMakePoll : Prop :=
  ∀ (s : State), s.phase = .polling → s.seq = ⟨.poll, 1, 0⟩ → s.ops = [] → s.busOpen = true →
    ∃ k, 0 < k ∧ Host.Core.run core k s = exec .poll s
end

