-- ==== Sys2Proof/Laws/State.lean ====
section
/-! SUPPORT. What each named update of the state does to each field: one lemma per field per update. -/

namespace Sys2Proof.Machine

/-! ### `log` -/

@[simp] theorem log_phase (e : Event) (s : State) : (log e s).phase = s.phase := rfl
@[simp] theorem log_seq (e : Event) (s : State) : (log e s).seq = s.seq := rfl
@[simp] theorem log_link (e : Event) (s : State) : (log e s).link = s.link := rfl
@[simp] theorem log_answer (e : Event) (s : State) : (log e s).answer = s.answer := rfl
@[simp] theorem log_samples (e : Event) (s : State) : (log e s).samples = s.samples := rfl
@[simp] theorem log_bus (e : Event) (s : State) : (log e s).bus = s.bus := rfl
@[simp] theorem log_busOpen (e : Event) (s : State) : (log e s).busOpen = s.busOpen := rfl
@[simp] theorem log_rstLine (e : Event) (s : State) : (log e s).rstLine = s.rstLine := rfl
@[simp] theorem log_pres (e : Event) (s : State) : (log e s).pres = s.pres := rfl
@[simp] theorem log_acqState (e : Event) (s : State) : (log e s).acqState = s.acqState := rfl
@[simp] theorem log_lastError (e : Event) (s : State) : (log e s).lastError = s.lastError := rfl
@[simp] theorem log_haltCause (e : Event) (s : State) : (log e s).haltCause = s.haltCause := rfl
@[simp] theorem log_trace (e : Event) (s : State) : (log e s).trace = s.trace ++ [e] := rfl
@[simp] theorem log_retriesLeft (e : Event) (s : State) : (log e s).retriesLeft = s.retriesLeft :=
    rfl
@[simp] theorem log_params (e : Event) (s : State) : (log e s).params = s.params := rfl
@[simp] theorem log_env (e : Event) (s : State) : (log e s).env = s.env := rfl
@[simp] theorem log_ops (e : Event) (s : State) : (log e s).ops = s.ops := rfl

/-! ### `goto` -/

@[simp] theorem goto_phase (p : Pos) (s : State) : (goto p s).phase = s.phase := rfl
@[simp] theorem goto_seq (p : Pos) (s : State) : (goto p s).seq = p := rfl
@[simp] theorem goto_link (p : Pos) (s : State) : (goto p s).link = s.link := rfl
@[simp] theorem goto_answer (p : Pos) (s : State) : (goto p s).answer = s.answer := rfl
@[simp] theorem goto_samples (p : Pos) (s : State) : (goto p s).samples = s.samples := rfl
@[simp] theorem goto_bus (p : Pos) (s : State) : (goto p s).bus = s.bus := rfl
@[simp] theorem goto_busOpen (p : Pos) (s : State) : (goto p s).busOpen = s.busOpen := rfl
@[simp] theorem goto_rstLine (p : Pos) (s : State) : (goto p s).rstLine = s.rstLine := rfl
@[simp] theorem goto_pres (p : Pos) (s : State) : (goto p s).pres = s.pres := rfl
@[simp] theorem goto_acqState (p : Pos) (s : State) : (goto p s).acqState = s.acqState := rfl
@[simp] theorem goto_lastError (p : Pos) (s : State) : (goto p s).lastError = s.lastError := rfl
@[simp] theorem goto_haltCause (p : Pos) (s : State) : (goto p s).haltCause = s.haltCause := rfl
@[simp] theorem goto_trace (p : Pos) (s : State) : (goto p s).trace = s.trace := rfl
@[simp] theorem goto_retriesLeft (p : Pos) (s : State) : (goto p s).retriesLeft = s.retriesLeft :=
    rfl
@[simp] theorem goto_params (p : Pos) (s : State) : (goto p s).params = s.params := rfl
@[simp] theorem goto_env (p : Pos) (s : State) : (goto p s).env = s.env := rfl
@[simp] theorem goto_ops (p : Pos) (s : State) : (goto p s).ops = s.ops := rfl

/-! ### `setDest` -/

@[simp] theorem setDest_phase (d : Dest) (v : Byte) (s : State) : (setDest d v s).phase = s.phase :=
    by cases d <;> rfl
@[simp] theorem setDest_seq (d : Dest) (v : Byte) (s : State) : (setDest d v s).seq = s.seq :=
    by cases d <;> rfl
@[simp] theorem setDest_link (d : Dest) (v : Byte) (s : State) : (setDest d v s).link = s.link :=
    by cases d <;> rfl
@[simp] theorem setDest_bus (d : Dest) (v : Byte) (s : State) : (setDest d v s).bus = s.bus :=
    by cases d <;> rfl
@[simp] theorem setDest_busOpen (d : Dest) (v : Byte) (s : State) : (setDest d v s).busOpen = s.busOpen :=
    by cases d <;> rfl
@[simp] theorem setDest_rstLine (d : Dest) (v : Byte) (s : State) : (setDest d v s).rstLine = s.rstLine :=
    by cases d <;> rfl
@[simp] theorem setDest_pres (d : Dest) (v : Byte) (s : State) : (setDest d v s).pres = s.pres :=
    by cases d <;> rfl
@[simp] theorem setDest_acqState (d : Dest) (v : Byte) (s : State) : (setDest d v s).acqState = s.acqState :=
    by cases d <;> rfl
@[simp] theorem setDest_lastError (d : Dest) (v : Byte) (s : State) : (setDest d v s).lastError = s.lastError :=
    by cases d <;> rfl
@[simp] theorem setDest_haltCause (d : Dest) (v : Byte) (s : State) : (setDest d v s).haltCause = s.haltCause :=
    by cases d <;> rfl
@[simp] theorem setDest_trace (d : Dest) (v : Byte) (s : State) : (setDest d v s).trace = s.trace :=
    by cases d <;> rfl
@[simp] theorem setDest_retriesLeft (d : Dest) (v : Byte) (s : State) : (setDest d v s).retriesLeft = s.retriesLeft :=
    by cases d <;> rfl
@[simp] theorem setDest_params (d : Dest) (v : Byte) (s : State) : (setDest d v s).params = s.params :=
    by cases d <;> rfl
@[simp] theorem setDest_env (d : Dest) (v : Byte) (s : State) : (setDest d v s).env = s.env :=
    by cases d <;> rfl
@[simp] theorem setDest_ops (d : Dest) (v : Byte) (s : State) : (setDest d v s).ops = s.ops :=
    by cases d <;> rfl

/-! ### `setTimeDest` -/

@[simp] theorem setTimeDest_phase (d : TimeDest) (t : Time) (s : State) : (setTimeDest d t s).phase = s.phase :=
    by cases d <;> rfl
@[simp] theorem setTimeDest_seq (d : TimeDest) (t : Time) (s : State) : (setTimeDest d t s).seq = s.seq :=
    by cases d <;> rfl
@[simp] theorem setTimeDest_link (d : TimeDest) (t : Time) (s : State) : (setTimeDest d t s).link = s.link :=
    by cases d <;> rfl
@[simp] theorem setTimeDest_answer (d : TimeDest) (t : Time) (s : State) : (setTimeDest d t s).answer = s.answer :=
    by cases d <;> rfl
@[simp] theorem setTimeDest_bus (d : TimeDest) (t : Time) (s : State) : (setTimeDest d t s).bus = s.bus :=
    by cases d <;> rfl
@[simp] theorem setTimeDest_busOpen (d : TimeDest) (t : Time) (s : State) : (setTimeDest d t s).busOpen = s.busOpen :=
    by cases d <;> rfl
@[simp] theorem setTimeDest_rstLine (d : TimeDest) (t : Time) (s : State) : (setTimeDest d t s).rstLine = s.rstLine :=
    by cases d <;> rfl
@[simp] theorem setTimeDest_pres (d : TimeDest) (t : Time) (s : State) : (setTimeDest d t s).pres = s.pres :=
    by cases d <;> rfl
@[simp] theorem setTimeDest_acqState (d : TimeDest) (t : Time) (s : State) : (setTimeDest d t s).acqState = s.acqState :=
    by cases d <;> rfl
@[simp] theorem setTimeDest_lastError (d : TimeDest) (t : Time) (s : State) : (setTimeDest d t s).lastError = s.lastError :=
    by cases d <;> rfl
@[simp] theorem setTimeDest_haltCause (d : TimeDest) (t : Time) (s : State) : (setTimeDest d t s).haltCause = s.haltCause :=
    by cases d <;> rfl
@[simp] theorem setTimeDest_trace (d : TimeDest) (t : Time) (s : State) : (setTimeDest d t s).trace = s.trace :=
    by cases d <;> rfl
@[simp] theorem setTimeDest_retriesLeft (d : TimeDest) (t : Time) (s : State) : (setTimeDest d t s).retriesLeft = s.retriesLeft :=
    by cases d <;> rfl
@[simp] theorem setTimeDest_params (d : TimeDest) (t : Time) (s : State) : (setTimeDest d t s).params = s.params :=
    by cases d <;> rfl
@[simp] theorem setTimeDest_env (d : TimeDest) (t : Time) (s : State) : (setTimeDest d t s).env = s.env :=
    by cases d <;> rfl
@[simp] theorem setTimeDest_ops (d : TimeDest) (t : Time) (s : State) : (setTimeDest d t s).ops = s.ops :=
    by cases d <;> rfl

/-! ### `xferFailed` -/

@[simp] theorem xferFailed_phase (b0 b1 : Byte) (s : State) : (xferFailed b0 b1 s).phase = s.phase :=
    rfl
@[simp] theorem xferFailed_seq (b0 b1 : Byte) (s : State) : (xferFailed b0 b1 s).seq = s.seq := rfl
@[simp] theorem xferFailed_link (b0 b1 : Byte) (s : State) : (xferFailed b0 b1 s).link = s.link :=
    rfl
@[simp] theorem xferFailed_answer (b0 b1 : Byte) (s : State) : (xferFailed b0 b1 s).answer = s.answer :=
    rfl
@[simp] theorem xferFailed_samples (b0 b1 : Byte) (s : State) : (xferFailed b0 b1 s).samples = s.samples :=
    rfl
@[simp] theorem xferFailed_bus (b0 b1 : Byte) (s : State) : (xferFailed b0 b1 s).bus = { s.bus with tx0 := b0, tx1 := b1 } :=
    rfl
@[simp] theorem xferFailed_busOpen (b0 b1 : Byte) (s : State) : (xferFailed b0 b1 s).busOpen = s.busOpen :=
    rfl
@[simp] theorem xferFailed_rstLine (b0 b1 : Byte) (s : State) : (xferFailed b0 b1 s).rstLine = s.rstLine :=
    rfl
@[simp] theorem xferFailed_pres (b0 b1 : Byte) (s : State) : (xferFailed b0 b1 s).pres = s.pres :=
    rfl
@[simp] theorem xferFailed_acqState (b0 b1 : Byte) (s : State) : (xferFailed b0 b1 s).acqState = s.acqState :=
    rfl
@[simp] theorem xferFailed_lastError (b0 b1 : Byte) (s : State) : (xferFailed b0 b1 s).lastError = s.lastError :=
    rfl
@[simp] theorem xferFailed_haltCause (b0 b1 : Byte) (s : State) : (xferFailed b0 b1 s).haltCause = s.haltCause :=
    rfl
@[simp] theorem xferFailed_trace (b0 b1 : Byte) (s : State) : (xferFailed b0 b1 s).trace = s.trace ++ [.xfer b0 b1 .fail] :=
    rfl
@[simp] theorem xferFailed_retriesLeft (b0 b1 : Byte) (s : State) : (xferFailed b0 b1 s).retriesLeft = s.retriesLeft :=
    rfl
@[simp] theorem xferFailed_params (b0 b1 : Byte) (s : State) : (xferFailed b0 b1 s).params = s.params :=
    rfl
@[simp] theorem xferFailed_env (b0 b1 : Byte) (s : State) : (xferFailed b0 b1 s).env = popAnswer s.env :=
    rfl
@[simp] theorem xferFailed_ops (b0 b1 : Byte) (s : State) : (xferFailed b0 b1 s).ops = s.ops := rfl

/-! ### `xferDone` -/

@[simp] theorem xferDone_phase (b0 b1 r0 r1 : Byte) (s : State) : (xferDone b0 b1 r0 r1 s).phase = s.phase :=
    rfl
@[simp] theorem xferDone_seq (b0 b1 r0 r1 : Byte) (s : State) : (xferDone b0 b1 r0 r1 s).seq = s.seq :=
    rfl
@[simp] theorem xferDone_link (b0 b1 r0 r1 : Byte) (s : State) : (xferDone b0 b1 r0 r1 s).link = s.link :=
    rfl
@[simp] theorem xferDone_answer (b0 b1 r0 r1 : Byte) (s : State) : (xferDone b0 b1 r0 r1 s).answer = s.answer :=
    rfl
@[simp] theorem xferDone_samples (b0 b1 r0 r1 : Byte) (s : State) : (xferDone b0 b1 r0 r1 s).samples = s.samples :=
    rfl
@[simp] theorem xferDone_bus (b0 b1 r0 r1 : Byte) (s : State) : (xferDone b0 b1 r0 r1 s).bus = ⟨b0, b1, r0, r1⟩ :=
    rfl
@[simp] theorem xferDone_busOpen (b0 b1 r0 r1 : Byte) (s : State) : (xferDone b0 b1 r0 r1 s).busOpen = s.busOpen :=
    rfl
@[simp] theorem xferDone_rstLine (b0 b1 r0 r1 : Byte) (s : State) : (xferDone b0 b1 r0 r1 s).rstLine = s.rstLine :=
    rfl
@[simp] theorem xferDone_pres (b0 b1 r0 r1 : Byte) (s : State) : (xferDone b0 b1 r0 r1 s).pres = s.pres :=
    rfl
@[simp] theorem xferDone_acqState (b0 b1 r0 r1 : Byte) (s : State) : (xferDone b0 b1 r0 r1 s).acqState = s.acqState :=
    rfl
@[simp] theorem xferDone_lastError (b0 b1 r0 r1 : Byte) (s : State) : (xferDone b0 b1 r0 r1 s).lastError = s.lastError :=
    rfl
@[simp] theorem xferDone_haltCause (b0 b1 r0 r1 : Byte) (s : State) : (xferDone b0 b1 r0 r1 s).haltCause = s.haltCause :=
    rfl
@[simp] theorem xferDone_trace (b0 b1 r0 r1 : Byte) (s : State) : (xferDone b0 b1 r0 r1 s).trace = s.trace ++ [.xfer b0 b1 (.ok r0 r1)] :=
    rfl
@[simp] theorem xferDone_retriesLeft (b0 b1 r0 r1 : Byte) (s : State) : (xferDone b0 b1 r0 r1 s).retriesLeft = s.retriesLeft :=
    rfl
@[simp] theorem xferDone_params (b0 b1 r0 r1 : Byte) (s : State) : (xferDone b0 b1 r0 r1 s).params = s.params :=
    rfl
@[simp] theorem xferDone_env (b0 b1 r0 r1 : Byte) (s : State) : (xferDone b0 b1 r0 r1 s).env = popAnswer s.env :=
    rfl
@[simp] theorem xferDone_ops (b0 b1 r0 r1 : Byte) (s : State) : (xferDone b0 b1 r0 r1 s).ops = s.ops :=
    rfl

/-! ### `delay` -/

@[simp] theorem delay_phase (n : Nat) (s : State) : (delay n s).phase = s.phase := rfl
@[simp] theorem delay_seq (n : Nat) (s : State) : (delay n s).seq = s.seq := rfl
@[simp] theorem delay_link (n : Nat) (s : State) : (delay n s).link = s.link := rfl
@[simp] theorem delay_answer (n : Nat) (s : State) : (delay n s).answer = s.answer := rfl
@[simp] theorem delay_samples (n : Nat) (s : State) : (delay n s).samples = s.samples := rfl
@[simp] theorem delay_bus (n : Nat) (s : State) : (delay n s).bus = s.bus := rfl
@[simp] theorem delay_busOpen (n : Nat) (s : State) : (delay n s).busOpen = s.busOpen := rfl
@[simp] theorem delay_rstLine (n : Nat) (s : State) : (delay n s).rstLine = s.rstLine := rfl
@[simp] theorem delay_pres (n : Nat) (s : State) : (delay n s).pres = s.pres := rfl
@[simp] theorem delay_acqState (n : Nat) (s : State) : (delay n s).acqState = s.acqState := rfl
@[simp] theorem delay_lastError (n : Nat) (s : State) : (delay n s).lastError = s.lastError := rfl
@[simp] theorem delay_haltCause (n : Nat) (s : State) : (delay n s).haltCause = s.haltCause := rfl
@[simp] theorem delay_trace (n : Nat) (s : State) : (delay n s).trace = s.trace ++ [.delayed n] :=
    rfl
@[simp] theorem delay_retriesLeft (n : Nat) (s : State) : (delay n s).retriesLeft = s.retriesLeft :=
    rfl
@[simp] theorem delay_params (n : Nat) (s : State) : (delay n s).params = s.params := rfl
@[simp] theorem delay_env (n : Nat) (s : State) : (delay n s).env = { s.env with clock := s.env.clock.map (· + n) } :=
    rfl
@[simp] theorem delay_ops (n : Nat) (s : State) : (delay n s).ops = s.ops := rfl

/-! ### `now` -/

@[simp] theorem now_phase (d : TimeDest) (s : State) : (now d s).phase = s.phase :=
    by cases d <;> rfl
@[simp] theorem now_seq (d : TimeDest) (s : State) : (now d s).seq = s.seq := by cases d <;> rfl
@[simp] theorem now_link (d : TimeDest) (s : State) : (now d s).link = s.link := by cases d <;> rfl
@[simp] theorem now_answer (d : TimeDest) (s : State) : (now d s).answer = s.answer :=
    by cases d <;> rfl
@[simp] theorem now_bus (d : TimeDest) (s : State) : (now d s).bus = s.bus := by cases d <;> rfl
@[simp] theorem now_busOpen (d : TimeDest) (s : State) : (now d s).busOpen = s.busOpen :=
    by cases d <;> rfl
@[simp] theorem now_rstLine (d : TimeDest) (s : State) : (now d s).rstLine = s.rstLine :=
    by cases d <;> rfl
@[simp] theorem now_pres (d : TimeDest) (s : State) : (now d s).pres = s.pres := by cases d <;> rfl
@[simp] theorem now_acqState (d : TimeDest) (s : State) : (now d s).acqState = s.acqState :=
    by cases d <;> rfl
@[simp] theorem now_lastError (d : TimeDest) (s : State) : (now d s).lastError = s.lastError :=
    by cases d <;> rfl
@[simp] theorem now_haltCause (d : TimeDest) (s : State) : (now d s).haltCause = s.haltCause :=
    by cases d <;> rfl
@[simp] theorem now_trace (d : TimeDest) (s : State) : (now d s).trace = s.trace ++ [.clock (nextNow s.env)] :=
    by cases d <;> rfl
@[simp] theorem now_retriesLeft (d : TimeDest) (s : State) : (now d s).retriesLeft = s.retriesLeft :=
    by cases d <;> rfl
@[simp] theorem now_params (d : TimeDest) (s : State) : (now d s).params = s.params :=
    by cases d <;> rfl
@[simp] theorem now_env (d : TimeDest) (s : State) : (now d s).env = popNow s.env :=
    by cases d <;> rfl
@[simp] theorem now_ops (d : TimeDest) (s : State) : (now d s).ops = s.ops := by cases d <;> rfl

/-! ### `rstLine` -/

@[simp] theorem rstLine_phase (l : Bool) (s : State) : (rstLine l s).phase = s.phase := rfl
@[simp] theorem rstLine_seq (l : Bool) (s : State) : (rstLine l s).seq = s.seq := rfl
@[simp] theorem rstLine_link (l : Bool) (s : State) : (rstLine l s).link = s.link := rfl
@[simp] theorem rstLine_answer (l : Bool) (s : State) : (rstLine l s).answer = s.answer := rfl
@[simp] theorem rstLine_samples (l : Bool) (s : State) : (rstLine l s).samples = s.samples := rfl
@[simp] theorem rstLine_bus (l : Bool) (s : State) : (rstLine l s).bus = s.bus := rfl
@[simp] theorem rstLine_busOpen (l : Bool) (s : State) : (rstLine l s).busOpen = s.busOpen := rfl
@[simp] theorem rstLine_rstLine (l : Bool) (s : State) : (rstLine l s).rstLine = l := rfl
@[simp] theorem rstLine_pres (l : Bool) (s : State) : (rstLine l s).pres = s.pres := rfl
@[simp] theorem rstLine_acqState (l : Bool) (s : State) : (rstLine l s).acqState = s.acqState :=
    rfl
@[simp] theorem rstLine_lastError (l : Bool) (s : State) : (rstLine l s).lastError = s.lastError :=
    rfl
@[simp] theorem rstLine_haltCause (l : Bool) (s : State) : (rstLine l s).haltCause = s.haltCause :=
    rfl
@[simp] theorem rstLine_trace (l : Bool) (s : State) : (rstLine l s).trace = s.trace ++ [.rst l] :=
    rfl
@[simp] theorem rstLine_retriesLeft (l : Bool) (s : State) : (rstLine l s).retriesLeft = s.retriesLeft :=
    rfl
@[simp] theorem rstLine_params (l : Bool) (s : State) : (rstLine l s).params = s.params := rfl
@[simp] theorem rstLine_env (l : Bool) (s : State) : (rstLine l s).env = s.env := rfl
@[simp] theorem rstLine_ops (l : Bool) (s : State) : (rstLine l s).ops = s.ops := rfl

/-! ### `busOpen` -/

@[simp] theorem busOpen_phase (s : State) : (busOpen s).phase = s.phase := rfl
@[simp] theorem busOpen_seq (s : State) : (busOpen s).seq = s.seq := rfl
@[simp] theorem busOpen_link (s : State) : (busOpen s).link = s.link := rfl
@[simp] theorem busOpen_answer (s : State) : (busOpen s).answer = s.answer := rfl
@[simp] theorem busOpen_samples (s : State) : (busOpen s).samples = s.samples := rfl
@[simp] theorem busOpen_bus (s : State) : (busOpen s).bus = s.bus := rfl
@[simp] theorem busOpen_busOpen (s : State) : (busOpen s).busOpen = true := rfl
@[simp] theorem busOpen_rstLine (s : State) : (busOpen s).rstLine = s.rstLine := rfl
@[simp] theorem busOpen_pres (s : State) : (busOpen s).pres = s.pres := rfl
@[simp] theorem busOpen_acqState (s : State) : (busOpen s).acqState = s.acqState := rfl
@[simp] theorem busOpen_lastError (s : State) : (busOpen s).lastError = s.lastError := rfl
@[simp] theorem busOpen_haltCause (s : State) : (busOpen s).haltCause = s.haltCause := rfl
@[simp] theorem busOpen_trace (s : State) : (busOpen s).trace = s.trace ++ [.busOpened] := rfl
@[simp] theorem busOpen_retriesLeft (s : State) : (busOpen s).retriesLeft = s.retriesLeft := rfl
@[simp] theorem busOpen_params (s : State) : (busOpen s).params = s.params := rfl
@[simp] theorem busOpen_env (s : State) : (busOpen s).env = s.env := rfl
@[simp] theorem busOpen_ops (s : State) : (busOpen s).ops = s.ops := rfl

/-! ### `emit` -/

@[simp] theorem emit_phase (s : State) : (emit s).phase = s.phase := rfl
@[simp] theorem emit_seq (s : State) : (emit s).seq = s.seq := rfl
@[simp] theorem emit_link (s : State) : (emit s).link = s.link := rfl
@[simp] theorem emit_answer (s : State) : (emit s).answer = s.answer := rfl
@[simp] theorem emit_samples (s : State) : (emit s).samples = s.samples := rfl
@[simp] theorem emit_bus (s : State) : (emit s).bus = s.bus := rfl
@[simp] theorem emit_busOpen (s : State) : (emit s).busOpen = s.busOpen := rfl
@[simp] theorem emit_rstLine (s : State) : (emit s).rstLine = s.rstLine := rfl
@[simp] theorem emit_pres (s : State) : (emit s).pres = s.pres := rfl
@[simp] theorem emit_acqState (s : State) : (emit s).acqState = s.acqState := rfl
@[simp] theorem emit_lastError (s : State) : (emit s).lastError = s.lastError := rfl
@[simp] theorem emit_haltCause (s : State) : (emit s).haltCause = s.haltCause := rfl
@[simp] theorem emit_trace (s : State) : (emit s).trace = s.trace ++ [.emitted (uidString s.answer.uid) s.params.label s.samples.nowS] :=
    rfl
@[simp] theorem emit_retriesLeft (s : State) : (emit s).retriesLeft = s.retriesLeft := rfl
@[simp] theorem emit_params (s : State) : (emit s).params = s.params := rfl
@[simp] theorem emit_env (s : State) : (emit s).env = s.env := rfl
@[simp] theorem emit_ops (s : State) : (emit s).ops = s.ops := rfl

end Sys2Proof.Machine
end

