-- ==== Sys2Proof/Laws/Ops.lean ====
section
/-! SUPPORT. One lemma per shared operation: everything it can do. -/

namespace Sys2Proof.Machine

open Sys2Proof.Safety

/-! ### Results -/

@[simp] theorem Res.andThen_ok (s : State) (f : State → Res) : (Res.ok s).andThen f = f s := rfl
@[simp] theorem Res.andThen_raised (e : Err) (s : State) (f : State → Res) :
    (Res.raised e s).andThen f = .raised e s := rfl
@[simp] theorem Res.andThen_refused (q : Refusal) (f : State → Res) :
    (Res.refused q).andThen f = .refused q := rfl
@[simp] theorem runSteps_nil (s : State) : runSteps [] s = .ok s := rfl
@[simp] theorem runSteps_cons (f : State → Res) (fs : List (State → Res)) (s : State) :
    runSteps (f :: fs) s = (f s).andThen (runSteps fs) := rfl
@[simp] theorem outcome_ok (s : State) (k : State → State) : outcome (.ok s) k = .next (k s) := rfl
@[simp] theorem outcome_raised (e : Err) (s : State) (k : State → State) :
    outcome (.raised e s) k = .next (takeRaise e s) := rfl
@[simp] theorem outcome_refused (q : Refusal) (k : State → State) :
    outcome (.refused q) k = .refused q := rfl

theorem Res.andThen_assoc (r : Res) (f g : State → Res) :
    (r.andThen f).andThen g = r.andThen fun s => (f s).andThen g := by cases r <;> rfl

theorem runSteps_append (fs gs : List (State → Res)) (s : State) :
    runSteps (fs ++ gs) s = (runSteps fs s).andThen (runSteps gs) := by
  induction fs generalizing s with
  | nil => rfl
  | cons f fs ih => simp [Res.andThen_assoc, funext ih]

/-- The result answers (it is no refusal), its state satisfies `P`, and if it is a raise, the error is one
of `K` and `last_error` holds its code (R166 (1)). -/
def Res.Does (K : Err → Bool) (P : State → Prop) : Res → Prop
  | .ok s => P s
  | .raised e s => P s ∧ K e = true ∧ s.lastError = e.code
  | .refused _ => False

@[simp] theorem Res.does_ok (K : Err → Bool) (P : State → Prop) (s : State) :
    (Res.ok s).Does K P ↔ P s := Iff.rfl
@[simp] theorem Res.does_raised (K : Err → Bool) (P : State → Prop) (e : Err) (s : State) :
    (Res.raised e s).Does K P ↔ P s ∧ K e = true ∧ s.lastError = e.code := Iff.rfl
@[simp] theorem Res.does_refused (K : Err → Bool) (P : State → Prop) (q : Refusal) :
    (Res.refused q).Does K P ↔ False := Iff.rfl

theorem Res.Does.mono {K : Err → Bool} {P Q : State → Prop} {r : Res} (h : r.Does K P)
    (hpq : ∀ s, P s → Q s) : r.Does K Q := by
  cases r with
  | ok s => exact hpq s h
  | raised e s => exact ⟨hpq s h.1, h.2⟩
  | refused q => exact h

/-- A larger class of errors. -/
theorem Res.Does.errors {K K' : Err → Bool} {P : State → Prop} {r : Res} (h : r.Does K P)
    (hk : ∀ e, K e = true → K' e = true) : r.Does K' P := by
  cases r with
  | ok s => exact h
  | raised e s => exact ⟨h.1, hk e h.2.1, h.2.2⟩
  | refused q => exact h

/-- The outcome of a piece that answers: where it went on, or what its raise led to. -/
theorem outcome_cases {K : Err → Bool} {P : State → Prop} {r : Res} (h : r.Does K P)
    (k : State → State) :
    ∃ t, outcome r k = .next t ∧ ((∃ u, r = .ok u ∧ P u ∧ t = k u) ∨
      ∃ e u, r = .raised e u ∧ P u ∧ K e = true ∧ u.lastError = e.code ∧ t = takeRaise e u) := by
  cases r with
  | ok u => exact ⟨_, rfl, .inl ⟨u, rfl, h, rfl⟩⟩
  | raised e u => exact ⟨_, rfl, .inr ⟨e, u, rfl, h.1, h.2.1, h.2.2, rfl⟩⟩
  | refused q => exact h.elim

/-- Perform a running operation. -/
theorem perform_running (f : State → Res) {s : State} (h : s.phase ≠ .halted) :
    perform f s = outcome (f s) id := by simp [perform, h]

/-- In `HALTED` no operation is performed (R168). -/
theorem perform_halted (f : State → Res) {s : State} (h : s.phase = .halted) :
    perform f s = .fault .halted := by simp [perform, h]

/-! ### What the transport and the engine leave alone -/

@[simp] theorem reports_append (tr tr' : List Event) : reports (tr ++ tr') = reports tr ++ reports tr' :=
  List.filterMap_append
@[simp] theorem reports_xfer (b0 b1 : Byte) (a : Answer) : reports [.xfer b0 b1 a] = [] := rfl
@[simp] theorem reports_rst (l : Bool) : reports [.rst l] = [] := rfl
@[simp] theorem reports_busOpened : reports [.busOpened] = [] := rfl
@[simp] theorem reports_delayed (n : Nat) : reports [.delayed n] = [] := rfl
@[simp] theorem reports_clock (t : Time) : reports [.clock t] = [] := rfl
@[simp] theorem reports_raised (e : Err) : reports [.raised e] = [] := rfl
@[simp] theorem reports_emitted (u l : Text) (t : Time) : reports [.emitted u l t] = [(u, l, t)] := rfl

@[simp] theorem transactions_append (tr tr' : List Event) :
    transactions (tr ++ tr') = transactions tr + transactions tr' := by
  simp [transactions]
@[simp] theorem transactions_nil : transactions [] = 0 := rfl
@[simp] theorem transactions_cons (e : Event) (tr : List Event) :
    transactions (e :: tr) = (if isXfer e then 1 else 0) + transactions tr := by
  cases h : isXfer e <;> simp [transactions, h]; omega

/-! ### The clock's bound -/

@[simp] theorem ClockKept.refl (e : Env) : ClockKept e e := fun c hc => ⟨c, hc, le_rfl⟩

theorem ClockKept.of_eq {e e' : Env} (h : e'.clock = e.clock) : ClockKept e e' :=
  fun c hc => ⟨c, h.trans hc, le_rfl⟩

theorem ClockKept.trans {e e' e'' : Env} (h : ClockKept e e') (k : ClockKept e' e'') :
    ClockKept e e'' := fun c hc =>
  have ⟨c', hc', hle⟩ := h c hc
  have ⟨c'', hc'', hle'⟩ := k c' hc'
  ⟨c'', hc'', hle.trans hle'⟩

/-- The lower bound of the next `Now` never falls. -/
theorem ClockKept.floor {e e' : Env} (h : ClockKept e e') : clockFloor e ≤ clockFloor e' := by
  cases hc : e.clock with
  | none => simp [clockFloor, hc]
  | some c => obtain ⟨c', hc', hle⟩ := h c hc; simpa [clockFloor, hc, hc'] using hle

/-- `t` follows `s` with everything kept but the transport, answer, sample and error registers,
`acq_state`, the trace, which only grows and without a report, and the environment, whose clock does not
go back. -/
structure Quiet (s t : State) : Prop where
  phase : t.phase = s.phase
  seq : t.seq = s.seq
  link : t.link = s.link
  busOpen : t.busOpen = s.busOpen
  rstLine : t.rstLine = s.rstLine
  pres : t.pres = s.pres
  haltCause : t.haltCause = s.haltCause
  retriesLeft : t.retriesLeft = s.retriesLeft
  params : t.params = s.params
  ops : t.ops = s.ops
  trace : s.trace <+: t.trace
  reports : reports t.trace = reports s.trace
  clock : ClockKept s.env t.env

theorem Quiet.refl (s : State) : Quiet s s :=
  ⟨rfl, rfl, rfl, rfl, rfl, rfl, rfl, rfl, rfl, rfl, List.prefix_rfl, rfl, ClockKept.refl _⟩

theorem Quiet.trans {s t u : State} (h : Quiet s t) (k : Quiet t u) : Quiet s u where
  phase := k.phase.trans h.phase
  seq := k.seq.trans h.seq
  link := k.link.trans h.link
  busOpen := k.busOpen.trans h.busOpen
  rstLine := k.rstLine.trans h.rstLine
  pres := k.pres.trans h.pres
  haltCause := k.haltCause.trans h.haltCause
  retriesLeft := k.retriesLeft.trans h.retriesLeft
  params := k.params.trans h.params
  ops := k.ops.trans h.ops
  trace := h.trace.trans k.trace
  reports := k.reports.trans h.reports
  clock := ClockKept.trans h.clock k.clock

/-- Chaining two pieces that both answer and are quiet. -/
theorem does_andThen {K : Err → Bool} {s : State} {r : Res} {f : State → Res}
    (h : r.Does K (Quiet s)) (hf : ∀ t, Quiet s t → (f t).Does K (Quiet t)) :
    (r.andThen f).Does K (Quiet s) := by
  cases r with
  | ok t => exact (hf t h).mono fun u hu => h.trans hu
  | raised e t => exact h
  | refused q => exact h

/-- A step list of quiet steps, each of which answers while the bus is open. -/
theorem does_runSteps {K : Err → Bool} {fs : List (State → Res)}
    (hf : ∀ f ∈ fs, ∀ s, s.busOpen = true → (f s).Does K (Quiet s)) {s : State}
    (hs : s.busOpen = true) : (runSteps fs s).Does K (Quiet s) := by
  induction fs generalizing s with
  | nil => exact Quiet.refl s
  | cons f fs ih =>
    exact does_andThen (hf f (by simp) s hs) fun t ht =>
      ih (fun g hg => hf g (by simp [hg])) (ht.busOpen.trans hs)

/-! ### The environment -/

@[simp] theorem popAnswer_clock (e : Env) : (popAnswer e).clock = e.clock := by
  unfold popAnswer; split <;> rfl

@[simp] theorem popNow_clock (e : Env) : (popNow e).clock = some (nextNow e) := by
  unfold popNow; split <;> rfl

/-- A `Now` never shows less than the clock's lower bound (R175). -/
theorem clockFloor_le_nextNow (e : Env) : clockFloor e ≤ nextNow e := by
  unfold nextNow; split <;> exact Nat.le_add_right _ _

@[simp] theorem clockKept_popAnswer (e : Env) : ClockKept e (popAnswer e) := ClockKept.of_eq (popAnswer_clock e)

@[simp] theorem clockKept_popNow (e : Env) : ClockKept e (popNow e) := fun c hc =>
  ⟨_, popNow_clock e, by simpa [clockFloor, hc] using clockFloor_le_nextNow e⟩

@[simp] theorem clockKept_wait (n : Nat) (e : Env) : ClockKept e { e with clock := e.clock.map (· + n) } :=
  fun c hc => ⟨c + n, by simp [hc], Nat.le_add_right c n⟩

/-! ### The primitives -/

theorem quiet_delay (n : Nat) (s : State) : Quiet s (delay n s) := by
  constructor <;> simp

theorem quiet_now (d : TimeDest) (s : State) : Quiet s (now d s) := by
  constructor <;> simp

theorem quiet_setDest (d : Dest) (v : Byte) (s : State) : Quiet s (setDest d v s) := by
  constructor <;> simp

/-- Raising keeps what a transport keeps (R166 (1)). -/
theorem does_raise {K : Err → Bool} {s t : State} (e : Err) (hk : K e = true) (h : Quiet s t) :
    (raise e t).Does K (Quiet s) :=
  ⟨h.trans (by constructor <;> simp), hk, by simp⟩

theorem quiet_xferDone (b0 b1 r0 r1 : Byte) (s : State) : Quiet s (xferDone b0 b1 r0 r1 s) := by
  constructor <;> simp

theorem quiet_xferFailed (b0 b1 : Byte) (s : State) : Quiet s (xferFailed b0 b1 s) := by
  constructor <;> simp

/-- Everything one `Xfer` can do (R80, R81, R84). -/
theorem xfer_cases (b0 b1 : Byte) (s : State) :
    (s.busOpen = false ∧ xfer b0 b1 s = .refused .busNotOpen) ∨
    (s.busOpen = true ∧ nextAnswer s.env = .fail ∧
      xfer b0 b1 s = raise (.transportError b0) (xferFailed b0 b1 s)) ∨
    (∃ r0 r1, s.busOpen = true ∧ nextAnswer s.env = .ok r0 r1 ∧
      xfer b0 b1 s = .ok (xferDone b0 b1 r0 r1 s)) := by
  unfold xfer
  cases s.busOpen with
  | false => simp
  | true => cases h : nextAnswer s.env <;> simp

theorem does_xfer (b0 b1 : Byte) {s : State} (h : s.busOpen = true) :
    (xfer b0 b1 s).Does isTransport (Quiet s) := by
  rcases xfer_cases b0 b1 s with ⟨h', _⟩ | ⟨_, _, hx⟩ | ⟨r0, r1, _, _, hx⟩
  · simp [h] at h'
  · rw [hx]; exact does_raise _ rfl (quiet_xferFailed b0 b1 s)
  · rw [hx]; exact quiet_xferDone b0 b1 r0 r1 s

/-- Every address of a `ChipMap` is a legal index. -/
@[simp] theorem legalIndex_toByte (a : RegIx) : legalIndex a.toByte = true := by
  revert a; decide

theorem does_wr {a : Byte} (v : Byte) {s : State} (ha : legalIndex a = true)
    (h : s.busOpen = true) : (wr a v s).Does isTransport (Quiet s) := by
  simpa [wr, ha] using does_xfer _ v h

theorem does_rdSending (d : Byte) {a : Byte} (dst : Dest) {s : State} (ha : legalIndex a = true)
    (h : s.busOpen = true) : (rdSending d a dst s).Does isTransport (Quiet s) := by
  simp only [rdSending, ha, if_true]
  exact does_andThen (does_xfer _ d h) fun t _ => quiet_setDest dst _ t

theorem does_rd (a : RegIx) (dst : Dest) {s : State} (h : s.busOpen = true) :
    (rd a dst s).Does isTransport (Quiet s) := does_rdSending _ dst (legalIndex_toByte a) h

theorem does_setBits {a : Byte} (m : Byte) {s : State} (ha : legalIndex a = true)
    (h : s.busOpen = true) : (setBits a m s).Does isTransport (Quiet s) :=
  does_andThen (does_rdSending _ .txcS ha h) fun _ ht => does_wr _ ha (ht.busOpen.trans h)

/-- With the bus open, a write to a legal register answers as the environment does (R82). -/
theorem wr_ok {a v r0 r1 : Byte} {s : State} (ha : legalIndex a = true) (h : s.busOpen = true)
    (hn : nextAnswer s.env = .ok r0 r1) :
    wr a v s = .ok (xferDone (addrByte a false) v r0 r1 s) := by
  simp [wr, ha, xfer, h, hn]

theorem wr_fail {a v : Byte} {s : State} (ha : legalIndex a = true) (h : s.busOpen = true)
    (hn : nextAnswer s.env = .fail) :
    wr a v s = raise (.transportError (addrByte a false)) (xferFailed (addrByte a false) v s) := by
  simp [wr, ha, xfer, h, hn]

theorem rdSending_ok {d a r0 r1 : Byte} {dst : Dest} {s : State} (ha : legalIndex a = true)
    (h : s.busOpen = true) (hn : nextAnswer s.env = .ok r0 r1) :
    rdSending d a dst s = .ok (setDest dst r1 (xferDone (addrByte a true) d r0 r1 s)) := by
  simp [rdSending, ha, xfer, h, hn]

theorem rdSending_fail {d a : Byte} {dst : Dest} {s : State} (ha : legalIndex a = true)
    (h : s.busOpen = true) (hn : nextAnswer s.env = .fail) :
    rdSending d a dst s =
      raise (.transportError (addrByte a true)) (xferFailed (addrByte a true) d s) := by
  simp [rdSending, ha, xfer, h, hn, raise]

/-! ### Taking a raise -/

/-- In `INIT` its three errors end the attempt (R168). -/
theorem takeRaise_init {e : Err} {s : State} (hs : s.seq.routine = .init) (he : fatalInInit e = true) :
    takeRaise e s = abortInit e s := by simp [takeRaise, hs, he]

/-- With no attempt left the block halts, with everything else kept (R168). -/
theorem abortInit_halts {e : Err} {s : State} (h : s.retriesLeft = 0) :
    abortInit e s =
      { s with phase := .halted, haltCause := e.code, seq := ⟨.none, 0, 0⟩, link := none } := by
  simp [abortInit, h, halt]

/-- In `DETECT` a `TransportError` returns `bus_fault` to the caller (R118). -/
theorem takeRaise_detect {e : Err} {s : State} {back : Pos} (hs : s.seq.routine = .detect)
    (hl : s.link = some back) (he : isTransport e = true) :
    takeRaise e s =
      { s with samples := { s.samples with detS := .busFault }, seq := back, link := none } := by
  simp [takeRaise, hs, he, returnToCaller, abortDetect, hl]

/-- In `ACQUIRE`, when no idle write follows, an error returns `acq_ok = 0` to the caller (R129). -/
theorem takeRaise_acquire {e : Err} {s : State} {back : Pos} (hs : s.seq.routine = .acquire)
    (hl : s.link = some back) (hi : idleFollows e s = false) :
    takeRaise e s =
      { s with samples := { s.samples with acqOk := false }, seq := back, link := none } := by
  simp [takeRaise, hs, hi, returnToCaller, abortAcquire, hl]

/-- In `POLL` and outside every routine a raise changes nothing more (log 14). -/
theorem takeRaise_elsewhere (e : Err) {s : State} (hs : s.seq.routine = .poll ∨ s.seq.routine = .none) :
    takeRaise e s = s := by
  rcases hs with hs | hs <;> simp [takeRaise, hs]

end Sys2Proof.Machine
end

