-- ==== Sys2Proof/Laws/PerInstr.lean ====
section
/-! SUPPORT. Statements made per instruction: the format and the length of every encoding (30_encoding.md
rules R60, R64 to R66, R70, R72, R74, R75). -/

namespace Sys2Proof.Laws

/-- The format that spec/opcode_table.json gives an operation's row. -/
def tableFormat : Instr → Format
  | .wr _ _ => .busFrame16
  | .rd _ _ => .busFrame16
  | .reqa => .cardFrame7
  | .anticollCl1 => .cardFrame16
  | .uidAnswer _ _ _ _ _ => .cardAnswer40
  | .delay _ => .prim
  | .now => .prim
  | .rstline _ => .prim
  | .busopen => .prim
  | .emit => .prim
  | .setbits _ _ => .pseudo
  | .clrirq => .pseudo
  | .flush => .pseudo
  | .cmd _ => .pseudo
  | .push _ => .pseudo
  | .pop => .pseudo
  | .init => .routine
  | .poll => .routine
  | .detect => .routine
  | .acquire => .routine

/-- How many bytes an encoded operation has: bus frames and full card frames two, the card answer five,
a short frame and a code one, and the operand bytes of a code after it (log 12). -/
def encodedLength : Instr → Nat
  | .wr _ _ => 2
  | .rd _ _ => 2
  | .reqa => 1
  | .anticollCl1 => 2
  | .uidAnswer _ _ _ _ _ => 5
  | .delay _ => 3
  | .now => 1
  | .rstline _ => 2
  | .busopen => 1
  | .emit => 1
  | .setbits _ _ => 3
  | .clrirq => 2
  | .flush => 2
  | .cmd _ => 2
  | .push _ => 2
  | .pop => 2
  | .init => 1
  | .poll => 1
  | .detect => 1
  | .acquire => 1

/-- The encoding of an operation has the format of its row and the length of its format. -/
def Encoding.Statement (i : Instr) : Prop :=
  ∀ p, (encode p i).fmt = tableFormat i ∧ (encode p i).bytes.length = encodedLength i

theorem Encoding.wr (a v : Byte) : Encoding.Statement (.wr a v) := fun _ => ⟨rfl, rfl⟩
theorem Encoding.rd (a d : Byte) : Encoding.Statement (.rd a d) := fun _ => ⟨rfl, rfl⟩
theorem Encoding.reqa : Encoding.Statement .reqa := fun _ => ⟨rfl, rfl⟩
theorem Encoding.anticollCl1 : Encoding.Statement .anticollCl1 := fun _ => ⟨rfl, rfl⟩
theorem Encoding.uidAnswer (u0 u1 u2 u3 c : Byte) : Encoding.Statement (.uidAnswer u0 u1 u2 u3 c) :=
  fun _ => ⟨rfl, rfl⟩
theorem Encoding.delay (n : Nat) : Encoding.Statement (.delay n) := fun _ => ⟨rfl, rfl⟩
theorem Encoding.now : Encoding.Statement .now := fun _ => ⟨rfl, rfl⟩
theorem Encoding.rstline (l : Bool) : Encoding.Statement (.rstline l) := fun _ => ⟨rfl, rfl⟩
theorem Encoding.busopen : Encoding.Statement .busopen := fun _ => ⟨rfl, rfl⟩
theorem Encoding.emit : Encoding.Statement .emit := fun _ => ⟨rfl, rfl⟩
theorem Encoding.setbits (a m : Byte) : Encoding.Statement (.setbits a m) := fun _ => ⟨rfl, rfl⟩
theorem Encoding.clrirq : Encoding.Statement .clrirq := fun _ => ⟨rfl, rfl⟩
theorem Encoding.flush : Encoding.Statement .flush := fun _ => ⟨rfl, rfl⟩
theorem Encoding.cmd (c : Byte) : Encoding.Statement (.cmd c) := fun _ => ⟨rfl, rfl⟩
theorem Encoding.push (v : Byte) : Encoding.Statement (.push v) := fun _ => ⟨rfl, rfl⟩
theorem Encoding.pop : Encoding.Statement .pop := fun _ => ⟨rfl, rfl⟩
theorem Encoding.init : Encoding.Statement .init := fun _ => ⟨rfl, rfl⟩
theorem Encoding.poll : Encoding.Statement .poll := fun _ => ⟨rfl, rfl⟩
theorem Encoding.detect : Encoding.Statement .detect := fun _ => ⟨rfl, rfl⟩
theorem Encoding.acquire : Encoding.Statement .acquire := fun _ => ⟨rfl, rfl⟩

end Sys2Proof.Laws
end

