-- ==== Sys2Proof/Laws/Routines.lean ====
section
/-! SUPPORT. What the routines can do: with the bus open every piece of `DETECT` and `ACQUIRE` answers and
is quiet, and the poll loop ends by the deadline. -/

namespace Sys2Proof.Machine

open Sys2Proof.Safety

/-! ### `DETECT` -/

theorem does_detectSteps {s : State} (h : s.busOpen = true) :
    (runSteps detectSteps s).Does isTransport (Quiet s) := by
  refine does_runSteps (fun f hf s hs => ?_) h
  simp only [detectSteps, List.mem_cons, List.not_mem_nil, or_false] at hf
  rcases hf with rfl | rfl | rfl | rfl | rfl | rfl | rfl | rfl | rfl
  · exact does_wr _ (legalIndex_toByte _) hs
  · exact does_wr _ (legalIndex_toByte _) hs
  · exact does_wr _ (legalIndex_toByte _) hs
  · exact does_wr _ (legalIndex_toByte _) hs
  · exact does_wr _ (legalIndex_toByte _) hs
  · exact quiet_delay _ s
  · exact does_rd _ _ hs
  · exact does_wr _ (legalIndex_toByte _) hs
  · constructor <;> simp

/-- `DETECT` with the bus open always completes, and it keeps what the transport keeps (R118). -/
theorem detectRun_completes {s : State} (h : s.busOpen = true) :
    ∃ t, detectRun s = .ok t ∧ Quiet s t := by
  have hd := does_detectSteps h
  unfold detectRun
  cases hr : runSteps detectSteps s with
  | ok t => exact ⟨t, rfl, by simpa [hr] using hd⟩
  | raised e t =>
    rw [hr, Res.does_raised] at hd
    exact ⟨abortDetect t, rfl, hd.1.trans (by constructor <;> simp [abortDetect])⟩
  | refused q => simp [hr] at hd

/-! ### `ACQUIRE` -/

/-- The errors that `ACQUIRE` can raise (R160): all but the two of `INIT`. -/
def notInit : Err → Bool
  | .transportUnresponsive _ => false
  | .chipNotDetected _ => false
  | .transportError _ => true
  | .frameError _ => true
  | .shortFrame _ => true
  | .checksumMismatch _ _ => true
  | .timeout => true

theorem notInit_of_isTransport (e : Err) (h : isTransport e = true) : notInit e = true := by
  cases e <;> simp_all [isTransport, notInit]

theorem does_wr' (a : RegIx) (v : Byte) {s : State} (h : s.busOpen = true) :
    (wr a.toByte v s).Does notInit (Quiet s) :=
  (does_wr v (legalIndex_toByte a) h).errors notInit_of_isTransport

theorem does_rd' (a : RegIx) (dst : Dest) {s : State} (h : s.busOpen = true) :
    (rd a dst s).Does notInit (Quiet s) := (does_rd a dst h).errors notInit_of_isTransport

theorem does_acquireTimeout {s t : State} (h : Quiet s t) : (acquireTimeout t).Does notInit (Quiet s) :=
  does_raise _ rfl (h.trans (by constructor <;> simp))

theorem does_irqGate (s : State) : (irqGate s).Does notInit (Quiet s) := by
  unfold irqGate
  split
  · constructor <;> simp
  · split
    · exact does_acquireTimeout (Quiet.refl s)
    · exact Quiet.refl s

theorem does_acquire6Deadline (s : State) : (acquire6Deadline s).Does notInit (Quiet s) := by
  unfold acquire6Deadline
  split
  · exact does_acquireTimeout (quiet_now _ s)
  · exact quiet_now _ s

theorem does_acquire6Sample {s : State} (h : s.busOpen = true) :
    (acquire6Sample s).Does notInit (Quiet s) :=
  does_andThen (does_rd' _ _ h) fun t _ => does_irqGate t

theorem does_acquireLoop (n : Nat) {s : State} (h : s.busOpen = true) :
    (acquireLoop n s).Does notInit (Quiet s) := by
  induction n generalizing s with
  | zero => exact does_acquireTimeout (Quiet.refl s)
  | succ n ih =>
    refine does_andThen (does_acquire6Deadline s) fun t ht => ?_
    have hb := ht.busOpen.trans h
    refine does_andThen (does_acquire6Sample hb) fun u hu => ?_
    split
    · exact Quiet.refl u
    · have hw := quiet_delay tAcqStep u
      exact (ih ((hw.busOpen.trans hu.busOpen).trans hb)).mono fun v hv => hw.trans hv

theorem does_acquireHead {s : State} (h : s.busOpen = true) :
    (runSteps acquireHead s).Does notInit (Quiet s) := by
  refine does_runSteps (fun f hf s hs => ?_) h
  simp only [acquireHead, List.mem_cons, List.not_mem_nil, or_false] at hf
  rcases hf with rfl | rfl | rfl | rfl | rfl | rfl | rfl | rfl | rfl
  · constructor <;> simp
  · exact does_wr' _ _ hs
  · exact does_wr' _ _ hs
  · exact does_wr' _ _ hs
  · exact does_wr' _ _ hs
  · exact does_wr' _ _ hs
  · exact does_wr' _ _ hs
  · exact does_andThen (does_wr' _ _ hs) fun t _ => by constructor <;> simp
  · exact quiet_now _ s

theorem does_errorGate (s : State) : (errorGate s).Does notInit (Quiet s) := by
  unfold errorGate
  split
  · exact does_raise _ rfl (by constructor <;> simp)
  · exact Quiet.refl s

theorem does_levelGate (s : State) : (levelGate s).Does notInit (Quiet s) := by
  unfold levelGate
  split
  · exact does_raise _ rfl (by constructor <;> simp)
  · exact Quiet.refl s

theorem does_acquire7 {s : State} (h : s.busOpen = true) : (acquire7 s).Does notInit (Quiet s) := by
  have hv : Quiet s { s with acqState := .validating } := by constructor <;> simp
  exact does_andThen ((does_rd' _ _ (hv.busOpen.trans h)).mono fun t ht => hv.trans ht)
    fun t _ => does_errorGate t

theorem does_acquire8 {s : State} (h : s.busOpen = true) : (acquire8 s).Does notInit (Quiet s) :=
  does_andThen (does_rd' _ _ h) fun t _ => does_levelGate t

theorem does_acquire10 (s : State) : (acquire10 s).Does notInit (Quiet s) := by
  unfold acquire10
  dsimp only
  split
  · exact does_raise _ rfl (by constructor <;> simp)
  · constructor <;> simp

theorem does_acquireTail {s : State} (h : s.busOpen = true) :
    (runSteps acquireTail s).Does notInit (Quiet s) := by
  refine does_runSteps (fun f hf s hs => ?_) h
  simp only [acquireTail, List.mem_cons, List.not_mem_nil, or_false] at hf
  rcases hf with rfl | rfl | rfl | rfl | rfl | rfl | rfl | rfl
  · exact does_acquire7 hs
  · exact does_acquire8 hs
  · exact does_rd' _ _ hs
  · exact does_rd' _ _ hs
  · exact does_rd' _ _ hs
  · exact does_rd' _ _ hs
  · exact does_rd' _ _ hs
  · exact does_acquire10 s

theorem does_acquireBody {s : State} (h : s.busOpen = true) : (acquireBody s).Does notInit (Quiet s) :=
  does_andThen (does_acquireHead h) fun _ ht =>
    have hb := ht.busOpen.trans h
    does_andThen (does_acquireLoop _ hb) fun _ hu => does_acquireTail (hu.busOpen.trans hb)

theorem quiet_abortAcquire (s : State) : Quiet s (abortAcquire s) := by
  constructor <;> simp [abortAcquire]

theorem acquireIdle_completes {s : State} (h : s.busOpen = true) :
    ∃ t, acquireIdle s = .ok t ∧ Quiet s t := by
  have hd : (acquire11 s).Does notInit (Quiet s) := does_wr' _ _ h
  unfold acquireIdle
  cases hr : acquire11 s with
  | ok t => exact ⟨t, rfl, by simpa [hr] using hd⟩
  | raised e t =>
    rw [hr, Res.does_raised] at hd
    exact ⟨_, rfl, hd.1.trans (quiet_abortAcquire t)⟩
  | refused q => simp [hr] at hd

/-- `ACQUIRE` with the bus open always completes, and it keeps what the transport keeps (R129). -/
theorem acquireRun_completes {s : State} (h : s.busOpen = true) :
    ∃ t, acquireRun s = .ok t ∧ Quiet s t := by
  have hd := does_acquireBody h
  unfold acquireRun
  cases hr : acquireBody s with
  | ok t =>
    rw [hr, Res.does_ok] at hd
    dsimp only
    split
    · obtain ⟨u, hu, hq⟩ := acquireIdle_completes (hd.busOpen.trans h)
      exact ⟨u, hu, hd.trans hq⟩
    · exact ⟨t, rfl, hd⟩
  | raised e t =>
    rw [hr, Res.does_raised] at hd
    have ha := hd.1.trans (quiet_abortAcquire t)
    dsimp only
    split
    · obtain ⟨u, hu, hq⟩ := acquireIdle_completes (ha.busOpen.trans h)
      exact ⟨u, hu, ha.trans hq⟩
    · exact ⟨_, rfl, ha⟩
  | refused q => simp [hr] at hd

/-! ### The poll loop, lap by lap -/

/-- One lap of the poll loop. -/
theorem acquireLoop_succ (n : Nat) (s : State) : acquireLoop (n + 1) s =
    (acquire6Deadline s).andThen fun s =>
      (acquire6Sample s).andThen fun s =>
        if rxComplete s then .ok s else acquireLoop n (acquire6Wait s) := rfl

/-- A lap before the deadline whose sample has neither flag: the loop goes on 1 ms later (R122). -/
theorem acquireLoop_lap {n : Nat} {s : State} {r : Byte × Byte} {rest : List Answer} {d : Nat}
    {ds : List Nat} {c : Nat} (hb : s.busOpen = true) (ha : s.env.answers = .ok r.1 r.2 :: rest)
    (ht : s.env.ticks = d :: ds) (hc : s.env.clock = some c) (hd : c + d - s.samples.acqT0 < 100)
    (hr : NoFlag s.params r) :
    ∃ b, acquireLoop (n + 1) s = acquireLoop n { s with
      bus := b
      samples := { s.samples with irqS := r.2 }
      env := { s.env with answers := rest, ticks := ds, clock := some (c + d + 1) }
      trace := s.trace ++ [.clock (c + d), didRead s.params s.params.chip.comIrq r.1 r.2, .delayed 1] } := by
  have hn : ¬ tAcqTimeout ≤ c + d - s.samples.acqT0 := by simp only [tAcqTimeout]; omega
  have hrx : r.2 &&& s.params.chip.irqRx = 0#8 := hr.1
  have htm : r.2 &&& s.params.chip.irqTimer = 0#8 := hr.2
  refine ⟨⟨addrByte s.params.chip.comIrq.toByte true, s.params.dummy, r.1, r.2⟩, ?_⟩
  simp only [acquireLoop_succ]
  simp [acquire6Deadline, deadlineReached, nextNow, clockFloor, ht, hc, hn, now, setTimeDest, popNow,
    acquire6Sample, rd, rdSending, xfer, hb, nextAnswer, ha, popAnswer, xferDone, setDest, log, irqGate,
    rxComplete, timerExpired, maskSet, hrx, htm, acquire6Wait, delay, didRead, tAcqStep]

/-- Any number of such laps (R122). -/
theorem acquireLoop_laps {n : Nat} {s : State} {polls : List (Byte × Byte)} {rest : List Answer}
    {ds dr : List Nat} {c : Nat} (hb : s.busOpen = true)
    (ha : s.env.answers = polls.map (fun r => Answer.ok r.1 r.2) ++ rest) (ht : s.env.ticks = ds ++ dr)
    (hl : ds.length = polls.length) (hc : s.env.clock = some c)
    (hd : polls ≠ [] → c + ds.sum + polls.length ≤ s.samples.acqT0 + 100)
    (hr : ∀ r ∈ polls, NoFlag s.params r) :
    ∃ b irq, acquireLoop (n + polls.length) s = acquireLoop n { s with
      bus := b
      samples := { s.samples with irqS := irq }
      env := { s.env with answers := rest, ticks := dr, clock := some (c + ds.sum + polls.length) }
      trace := s.trace ++ lapEvents s.params c ds polls } := by
  induction polls generalizing s ds c with
  | nil =>
    obtain rfl : ds = [] := List.length_eq_zero_iff.1 hl
    refine ⟨s.bus, s.samples.irqS, ?_⟩
    rcases s with ⟨ph, sq, lk, an, sm, bs, bo, rl, pr, ac, le, hcz, tr, rt, pa, ⟨as, fa, ts, ft, ck⟩, op⟩
    simp_all [lapEvents]
  | cons r polls ih =>
    cases ds with
    | nil => simp at hl
    | cons d ds =>
      have hle := hd (by simp)
      simp only [List.sum_cons, List.length_cons] at hle
      obtain ⟨b, hb1⟩ := acquireLoop_lap (n := n + polls.length) hb ha ht hc (by omega) (hr r (by simp))
      obtain ⟨b', irq, h⟩ := ih (s := { s with
          bus := b
          samples := { s.samples with irqS := r.2 }
          env := { s.env with
            answers := polls.map (fun r => Answer.ok r.1 r.2) ++ rest
            ticks := ds ++ dr
            clock := some (c + d + 1) }
          trace := s.trace ++
            [.clock (c + d), didRead s.params s.params.chip.comIrq r.1 r.2, .delayed 1] })
        hb rfl rfl (by simpa using hl) rfl (fun _ => by dsimp only; omega)
        (fun x hx => hr x (by simp [hx]))
      refine ⟨b', irq, ?_⟩
      rw [List.length_cons, ← Nat.add_assoc]
      refine hb1.trans (h.trans ?_)
      have he : c + d + 1 + ds.sum + polls.length = c + (d + ds.sum) + (polls.length + 1) := by omega
      simp [lapEvents, he]

end Sys2Proof.Machine
end

