-- ==== Sys2Proof/Machine/Listing.lean ====
section
/-! DEFINITION. The textual syntax of operations and the bus-level listing (30_encoding.md rules R73 and
R74). Nothing the machine does depends on it. -/

namespace Sys2Proof.Machine

/-- A byte operand: `#0xNN` (R73). -/
def listByte (b : Byte) : Text := "#0x".toList ++ hex2 b

/-- A number operand: `#n` (R73). -/
def listNat (n : Nat) : Text := '#' :: Nat.toDigits 10 n

/-- One operation as a line of R73 and R74, register operands as `#0xNN` indices; a read's dummy byte is
not written. The card frames, which R73 gives no syntax, are written by their mnemonics. -/
def listing : Instr → Text
  | .wr a v => "WR ".toList ++ listByte a ++ ", ".toList ++ listByte v
  | .rd a _ => "RD ".toList ++ listByte a
  | .reqa => "REQA".toList
  | .anticollCl1 => "ANTICOLL_CL1".toList
  | .uidAnswer u0 u1 u2 u3 c => "UID_ANSWER ".toList ++ uidString ⟨u0, u1, u2, u3⟩ ++ ':' :: hex2 c
  | .delay n => "DELAY ".toList ++ listNat n
  | .now => "NOW".toList
  | .rstline l => "RSTLINE #".toList ++ [if l then '1' else '0']
  | .busopen => "BUSOPEN".toList
  | .emit => "EMIT".toList
  | .setbits a m => "SETBITS ".toList ++ listByte a ++ ", ".toList ++ listByte m
  | .clrirq => "CLRIRQ".toList
  | .flush => "FLUSH".toList
  | .cmd c => "CMD ".toList ++ listByte c
  | .push v => "PUSH ".toList ++ listByte v
  | .pop => "POP".toList
  | .init => "INIT".toList
  | .poll => "POLL".toList
  | .detect => "DETECT".toList
  | .acquire => "ACQUIRE".toList

/-- The bus-level listing of a frame: its two sent bytes in hexadecimal (R73). -/
def busListing (b0 b1 : Byte) : Text := hex2 b0 ++ ' ' :: hex2 b1

end Sys2Proof.Machine
end

