-- ==== Sys2Proof/Tests/Slice0.lean ====
section
/-! SUPPORT. Tests: the WellFormed smoke, decoding of words written out from the spec's encodings, the
vectors of 95_test_vectors.md one operation at a time, and a witness for every obligation with hypotheses.
Expected results come from the spec, cited at each test. -/

namespace Sys2Proof.Tests

open Sys2Proof.Machine Sys2Proof.Safety

/-! ### Helpers -/

/-- Whether an outcome is a next state with a property. -/
def answers (o : Host.Outcome State Fault Refusal) (p : State → Bool) : Bool :=
  match o with
  | .next t => p t
  | .fault _ => false
  | .refused _ => false

/-- Whether an outcome is a given refusal. -/
def refuses (o : Host.Outcome State Fault Refusal) (q : Refusal) : Bool :=
  match o with
  | .next _ => false
  | .fault _ => false
  | .refused r => decide (r = q)

theorem of_answers {o : Host.Outcome State Fault Refusal} {p : State → Bool} (h : answers o p = true) :
    ∃ t, o = .next t ∧ p t = true := by
  cases o with
  | next t => exact ⟨t, rfl, h⟩
  | fault f => cases h
  | refused q => cases h

/-- An answered transaction whose second received byte is `v`. -/
def got (v : Byte) : Answer := .ok 0 v

/-- A write's answer: any two bytes. -/
def w : Answer := .ok 0xFF 0xFF

/-- The default parameters with a label of a test's own. -/
def params : Params := { defaultParams with label := "door".toList }

/-- The state after power-on with scripted answers and an ideal clock that has been read at 0. -/
def booting (as : List Answer) : State :=
  { State.reset with params := params, env := ⟨as, 0, List.replicate 200 0, 0, some 0⟩ }

/-- A running block with its bus open, at clock 1000, at the start of a cycle. -/
def running (as : List Answer) : State :=
  { State.reset with
    phase := .polling, seq := ⟨.poll, 1, 0⟩, busOpen := true, rstLine := true, params := params
    env := ⟨as, 0, List.replicate 200 0, 0, some 1000⟩ }

/-- The running block with the sequencer at another position. -/
def at_ (p : Pos) (as : List Answer) : State := { running as with seq := p }

/-- The UID of the source's example (95_test_vectors.md S11) and another (U2). -/
def uidA : Uid := ⟨0x04, 0xA3, 0x9F, 0x1B⟩
def uidB : Uid := ⟨0xDE, 0xAD, 0xBE, 0xEF⟩

/-- The answers of a `DETECT` whose read gives `irq`. -/
def detectScript (irq : Byte) : List Answer := [w, w, w, w, w, got irq, w]

/-- The answers of an `ACQUIRE` up to its last write. -/
def sevenWrites : List Answer := [w, w, w, w, w, w, w]

/-- The answers of an `ACQUIRE` that succeeds at its first poll (vector A1). -/
def acquireScript (u : Uid) (c : Byte) : List Answer :=
  sevenWrites ++ [got 0x64, got 0, got 5, got u.b0, got u.b1, got u.b2, got u.b3, got c]

/-! ### WellFormed smoke: one ill-formed term for each check -/

theorem test_wf_wr_index : (Instr.wr 0x40 0).wf = false ∧ (Instr.wr 0x3F 0).wf = true := by decide
theorem test_wf_rd_index : (Instr.rd 0x40 0).wf = false ∧ (Instr.rd 0x3F 0).wf = true := by decide
theorem test_wf_setbits_index :
    (Instr.setbits 0x40 3).wf = false ∧ (Instr.setbits 0x3F 3).wf = true := by decide
theorem test_wf_delay_operand :
    (Instr.delay 65536).wf = false ∧ (Instr.delay 65535).wf = true := by decide
theorem test_wf_chip_default : defaultChipMap.wf = true := by decide
theorem test_wf_chip_two_equal_addresses : { defaultChipMap with tMode := 0x01 }.wf = false := by decide
theorem test_wf_chip_rx_two_bits : { defaultChipMap with irqRx := 0x30 }.wf = false := by decide
theorem test_wf_chip_timer_no_bit : { defaultChipMap with irqTimer := 0 }.wf = false := by decide
theorem test_wf_chip_same_flags : { defaultChipMap with irqTimer := 0x20 }.wf = false := by decide
theorem test_wf_chip_start_two_bits : { defaultChipMap with bfStart := 0xC0 }.wf = false := by decide

/-! ### Decoding, each word written out from the encoding of its row (R60 to R66, R74, R75) -/

theorem test_decode_wr :
    decode params ⟨.busFrame16, [0b01010100, 0b10001101]⟩ = .ok (.wr 0x2A 0x8D) := by rfl
theorem test_decode_rd :
    decode params ⟨.busFrame16, [0b11101110, 0b00000000]⟩ = .ok (.rd 0x37 0) := by rfl
theorem test_decode_reqa : decode params ⟨.cardFrame7, [0b0100110]⟩ = .ok .reqa := by rfl
theorem test_decode_anticollCl1 :
    decode params ⟨.cardFrame16, [0b10010011, 0b00100000]⟩ = .ok .anticollCl1 := by rfl
theorem test_decode_uidAnswer :
    decode params ⟨.cardAnswer40, [0x04, 0xA3, 0x9F, 0x1B, 0x23]⟩ =
      .ok (.uidAnswer 0x04 0xA3 0x9F 0x1B 0x23) := by rfl
theorem test_decode_delay : decode params ⟨.prim, [0b001, 0x01, 0xF4]⟩ = .ok (.delay 500) := by rfl
theorem test_decode_now : decode params ⟨.prim, [0b010]⟩ = .ok .now := by rfl
theorem test_decode_rstline : decode params ⟨.prim, [0b011, 1]⟩ = .ok (.rstline true) := by rfl
theorem test_decode_busopen : decode params ⟨.prim, [0b100]⟩ = .ok .busopen := by rfl
theorem test_decode_emit : decode params ⟨.prim, [0b101]⟩ = .ok .emit := by rfl
theorem test_decode_setbits :
    decode params ⟨.pseudo, [0b110, 0x14, 0x03]⟩ = .ok (.setbits 0x14 0x03) := by rfl
theorem test_decode_clrirq : decode params ⟨.pseudo, [0b00001000, 0b01111111]⟩ = .ok .clrirq := by rfl
theorem test_decode_flush : decode params ⟨.pseudo, [0b00010100, 0b10000000]⟩ = .ok .flush := by rfl
theorem test_decode_cmd : decode params ⟨.pseudo, [0b00000010, 0x0C]⟩ = .ok (.cmd 0x0C) := by rfl
theorem test_decode_push : decode params ⟨.pseudo, [0b00010010, 0x26]⟩ = .ok (.push 0x26) := by rfl
theorem test_decode_pop : decode params ⟨.pseudo, [0b10010010, 0x00]⟩ = .ok .pop := by rfl
theorem test_decode_init : decode params ⟨.routine, [0b001]⟩ = .ok .init := by rfl
theorem test_decode_poll : decode params ⟨.routine, [0b010]⟩ = .ok .poll := by rfl
theorem test_decode_detect : decode params ⟨.routine, [0b011]⟩ = .ok .detect := by rfl
theorem test_decode_acquire : decode params ⟨.routine, [0b100]⟩ = .ok .acquire := by rfl

/-- R71, D35: an address byte with bit 0 set is no bus frame, and no other card frame exists. -/
theorem test_decode_refused :
    decode params ⟨.busFrame16, [0x55, 0x8D]⟩ = .error .zBitSet ∧
    decode params ⟨.cardFrame7, [0x52]⟩ = .error .unknownShortFrame ∧
    decode params ⟨.cardFrame16, [0x93, 0x70]⟩ = .error .unknownFullFrame ∧
    decode params ⟨.prim, [0]⟩ = .error .unknownPrimitive ∧
    decode params ⟨.prim, [0b011, 2]⟩ = .error .levelNotZeroOrOne ∧
    decode params ⟨.pseudo, [0x54, 0x8D]⟩ = .error .notAPseudo ∧
    decode params ⟨.routine, [0]⟩ = .error .unknownRoutine ∧
    decode params ⟨.routine, []⟩ = .error .wrongLength := ⟨rfl, rfl, rfl, rfl, rfl, rfl, rfl, rfl⟩

/-- Table words of opcode_table.json, the first byte sent in bits 15:8. -/
theorem test_table_words :
    decodeTableWord 16 0x548D = some (.wr 0x2A 0x8D) ∧ decodeTableWord 16 0xD400 = some (.rd 0x2A 0) ∧
    decodeTableWord 8 0x26 = some .reqa ∧ decodeTableWord 16 0x9320 = some .anticollCl1 ∧
    decodeTableWord 40 0x04A39F1B23 = some (.uidAnswer 0x04 0xA3 0x9F 0x1B 0x23) ∧
    decodeTableWord 8 2 = some .now ∧ decodeTableWord 8 0 = none ∧ decodeTableWord 48 0 = none :=
  ⟨rfl, rfl, rfl, rfl, rfl, rfl, rfl, rfl⟩

/-- R73's own example: `54 8D` for `WR A_TMODE, #0x8D`; a line of program P7. -/
theorem test_listing :
    busListing (addrByte 0x2A false) 0x8D = "54 8D".toList ∧
    listing (.wr 0x2A 0x8D) = "WR #0x2A, #0x8D".toList ∧
    listing (.delay 100) = "DELAY #100".toList := by decide

/-! ### Vectors, one operation each -/

/-- T12: bytes sent `02 0C`; the received bytes of a write are ignored. -/
theorem test_wr_T12 : answers (exec (.wr 0x01 0x0C) (running [.ok 0xFF 0xFF])) (fun t =>
    decide (t.bus = ⟨0x02, 0x0C, 0xFF, 0xFF⟩ ∧ t.samples = (running []).samples)) = true := by decide
/-- T13: a write answered `fail`: one transaction, no retry. -/
theorem test_wr_T13 : answers (exec (.wr 0x09 0x26) (running [.fail, w])) (fun t =>
    decide (t.lastError = .transportError ∧ t.env.answers = [w] ∧ t.bus.tx0 = 0x12)) = true := by decide
/-- T10: the first received byte is discarded. -/
theorem test_rd_T10 : answers (exec (.rd 0x2A 0) (at_ ⟨.init, 3, 1⟩ [.ok 0x5A 0x8D])) (fun t =>
    decide (t.bus = ⟨0xD4, 0x00, 0x5A, 0x8D⟩ ∧ t.samples.probeS = 0x8D)) = true := by decide
/-- T14: a read answered `fail` writes no destination. -/
theorem test_rd_T14 : answers (exec (.rd 0x04 0) (at_ ⟨.acquire, 6, 2⟩ [.fail])) (fun t =>
    decide (t.bus.tx0 = 0x88 ∧ t.samples.irqS = 0 ∧ t.lastError = .transportError)) = true := by decide
/-- T17: `A8 00` then `28 83`. -/
theorem test_setbits_T17 : answers (exec (.setbits 0x14 0x03) (running [got 0x80, w])) (fun t =>
    decide (t.samples.txcS = 0x80 ∧ t.trace =
      [.xfer 0xA8 0x00 (got 0x80), .xfer 0x28 0x83 w])) = true := by decide
/-- T21: no write follows a failed read. -/
theorem test_setbits_T21 : answers (exec (.setbits 0x14 0x03) (running [.fail, w])) (fun t =>
    decide (t.env.answers = [w] ∧ t.lastError = .transportError)) = true := by decide
/-- T15, T16: an index above 0x3F and a closed bus are refused. -/
theorem test_refusals_T15_T16 :
    refuses (exec (.wr 0x40 0) (running [w])) .indexAbove3F = true ∧
    refuses (exec (.wr 0x01 0) (booting [w])) .busNotOpen = true := by decide
/-- R64 under the default map: `1A 07`, `12 26`. -/
theorem test_reqa : answers (exec .reqa (running [w, w])) (fun t =>
    decide (t.trace = [.xfer 0x1A 0x07 w, .xfer 0x12 0x26 w])) = true := by decide
/-- R65 under the default map: `1A 00`, `12 93`, `12 20`. -/
theorem test_anticollCl1 : answers (exec .anticollCl1 (running [w, w, w])) (fun t =>
    decide (t.trace = [.xfer 0x1A 0x00 w, .xfer 0x12 0x93 w, .xfer 0x12 0x20 w])) = true := by decide
/-- X3: valid. -/
theorem test_uidAnswer_X3 : answers (exec (.uidAnswer 0xDE 0xAD 0xBE 0xEF 0x22) (running [])) (fun t =>
    decide (t.acqState = .valid ∧ t.samples.acqOk = true ∧ t.answer = ⟨uidB, 0x22, 0x22⟩)) = true := by
  decide
/-- X2: one bit off. -/
theorem test_uidAnswer_X2 : answers (exec (.uidAnswer 0x04 0xA3 0x9F 0x1B 0x22) (running [])) (fun t =>
    decide (t.acqState = .invalid ∧ t.samples.acqOk = false ∧
      t.trace = [.raised (.checksumMismatch 0x23 0x22)])) = true := by decide
/-- The delay of P1 step 1b. -/
theorem test_delay : answers (exec (.delay 100) (booting [])) (fun t =>
    decide (t.env.clock = some 100 ∧ t.trace = [.delayed 100])) = true := by decide
/-- The clock sample of `POLL` step 4 (R147). -/
theorem test_now : answers (exec .now (at_ ⟨.poll, 4, 0⟩ [])) (fun t =>
    decide (t.samples.nowS = 1000 ∧ t.trace = [.clock 1000])) = true := by decide
/-- W7: `now_s` may be 0 although `DETECT` has waited 25 ms, since no `Now` came before the wait (R176). -/
theorem test_now_W7 : answers (exec (.delay 25) { at_ ⟨.poll, 4, 0⟩ [] with env := ⟨[], 0, [0], 0, none⟩ })
    (fun t => answers (exec .now t) fun u => decide (u.samples.nowS = 0 ∧ u.env.clock = some 0)) = true := by
  decide
/-- The first line of P1. -/
theorem test_rstline : answers (exec (.rstline true) (booting [])) (fun t =>
    decide (t.rstLine = true ∧ t.trace = [.rst true])) = true := by decide
/-- Step 2 of P1. -/
theorem test_busopen : answers (exec .busopen (booting [])) (fun t =>
    decide (t.busOpen = true ∧ t.trace = [.busOpened])) = true := by decide
/-- U1: the source's own string, on the event port. -/
theorem test_emit_U1 : answers (exec .emit { running [] with answer := ⟨uidA, 0x23, 0x23⟩ }) (fun t =>
    decide (t.trace = [.emitted "04:A3:9F:1B".toList "door".toList 0])) = true := by decide
/-- Default bytes of the pseudo-operations (opcode_table.json): `08 7F`, `14 80`, `02 0F`, `12 26`. -/
theorem test_pseudo_writes :
    answers (exec .clrirq (running [w])) (fun t => decide (t.trace = [.xfer 0x08 0x7F w])) = true ∧
    answers (exec .flush (running [w])) (fun t => decide (t.trace = [.xfer 0x14 0x80 w])) = true ∧
    answers (exec (.cmd 0x0F) (running [w])) (fun t => decide (t.trace = [.xfer 0x02 0x0F w])) = true ∧
    answers (exec (.push 0x26) (running [w])) (fun t => decide (t.trace = [.xfer 0x12 0x26 w])) = true := by
  decide
/-- `POP` is `92 00`; in `ACQUIRE` step 9 its value is a UID byte (R126). -/
theorem test_pop : answers (exec .pop (at_ ⟨.acquire, 9, 1⟩ [got 0xA3])) (fun t =>
    decide (t.trace = [.xfer 0x92 0x00 (got 0xA3)] ∧ t.answer.uid.b1 = 0xA3)) = true := by decide
/-- P1: the whole bring-up, its trace under the default map. -/
theorem test_init_P1 : answers (exec .init (booting
    [w, got 0x8D, w, got 0x92, w, w, w, w, w, w, got 0x80, w])) (fun t =>
    decide (t.phase = .polling ∧ t.seq = ⟨.poll, 1, 0⟩ ∧ t.env.clock = some 200 ∧ t.trace =
      [.rst false, .delayed 100, .rst true, .delayed 50, .busOpened, .xfer 0x54 0x8D w,
        .xfer 0xD4 0x00 (got 0x8D), .xfer 0x02 0x0F w, .delayed 50, .xfer 0xEE 0x00 (got 0x92),
        .xfer 0x54 0x8D w, .xfer 0x56 0x3E w, .xfer 0x5A 0x1E w, .xfer 0x58 0x00 w,
        .xfer 0x2A 0x40 w, .xfer 0x22 0x3D w, .xfer 0xA8 0x00 (got 0x80), .xfer 0x28 0x83 w])) =
    true := by decide
/-- B8: a failed configuration write halts; nothing more is sent. -/
theorem test_init_B8 : answers (exec .init (booting
    [w, got 0x8D, w, got 0x92, w, w, w, .fail, w])) (fun t =>
    decide (t.phase = .halted ∧ t.haltCause = .transportError ∧ t.env.answers = [w] ∧
      t.busOpen = true ∧ t.rstLine = true)) = true := by decide
/-- K7: every flag but bit 5. -/
theorem test_detect_K7 : answers (exec .detect (running (detectScript 0xDF))) (fun t =>
    decide (t.samples.detS = .absent ∧ t.env.clock = some 1025)) = true := by decide
/-- K10: the idle write fails after the flag was seen. -/
theorem test_detect_K10 : answers (exec .detect (running [w, w, w, w, w, got 0x64, .fail])) (fun t =>
    decide (t.samples.detS = .busFault ∧ t.lastError = .transportError)) = true := by decide
/-- A2: the third sample, at 1002, has the flag. -/
theorem test_acquire_A2 : answers (exec .acquire (running (sevenWrites ++
    [got 0x04, got 0x04, got 0x64, got 0, got 5, got 0x04, got 0xA3, got 0x9F, got 0x1B, got 0x23])))
    (fun t => decide (t.samples.acqOk = true ∧ t.answer = ⟨uidA, 0x23, 0x23⟩ ∧ t.env.clock = some 1002 ∧
      transactions t.trace = 17 ∧ t.acqState = .valid)) = true := by decide
/-- A15: a failure at the 14th transaction keeps `acq_state`, `uid[3]` and `chk_rx`. -/
theorem test_acquire_A15 : answers (exec .acquire (running (sevenWrites ++
    [got 0x64, got 0, got 5, got 0x04, got 0xA3, got 0x9F, .fail, w]))) (fun t =>
    decide (t.samples.acqOk = false ∧ t.acqState = .validating ∧ t.answer.uid.b3 = 0 ∧
      t.lastError = .transportError ∧ t.env.answers = [w])) = true := by decide
/-- W3: the same card at T+5000 is reported again; here T = 0 and `now_s` = 5000. -/
theorem test_poll_W3 : answers (exec .poll { running (detectScript 0x64 ++ acquireScript uidA 0x23) with
    pres := ⟨.absent, some uidA, 0⟩, env := ⟨detectScript 0x64 ++ acquireScript uidA 0x23, 0,
      [0, 0, 0], 0, some 4975⟩ }) (fun t =>
    decide (t.pres = ⟨.present, some uidA, 5000⟩ ∧
      reports t.trace = [("04:A3:9F:1B".toList, "door".toList, 5000)])) = true := by decide
/-- P6: a bus fault while a card is present leaves the Presence State alone. -/
theorem test_poll_P6 : answers (exec .poll { running [w, w, w, w, w, .fail] with
    pres := ⟨.present, some uidA, 400⟩ }) (fun t =>
    decide (t.pres = ⟨.present, some uidA, 400⟩ ∧ t.env.clock = some 1525 ∧
      t.lastError = .transportError ∧ transactions t.trace = 6)) = true := by decide
/-- An operation placed by `withFetchWord` is what the next step runs. -/
theorem test_withFetchWord : answers (step ((running []).withFetchWord 8 0b010)) (fun t =>
    decide (t.trace = [.clock 1000] ∧ t.seq = ⟨.poll, 1, 0⟩)) = true := by decide
/-- Under `TS_BITS = 4`, 1 minus 14 is 3 (R76, D9). -/
theorem test_elapsed_wraps : elapsed { params with tsBits := some 4 } 1 14 = 3 := by decide

/-! ### Witnesses: for each obligation with hypotheses, values that meet all of them together, for each of
its clauses, at a boundary where the clause has one -/

theorem witness_StepRunsPlacedOperation :
    ((running []).phase ≠ .halted ∧ { running [] with ops := [⟨.prim, [2]⟩] }.ops = [⟨.prim, [2]⟩] ∧
      decode params ⟨.prim, [2]⟩ = .ok .now ∧ decode params ⟨.prim, [0]⟩ = .error .unknownPrimitive) ∧
    decodeTableWord 16 0x7EFF = some (.wr 0x3F 0xFF) := ⟨⟨by decide, rfl, rfl, rfl⟩, rfl⟩

/-- A read with the bus open and an answer; the first steps of a bring-up with the bus closed, which need
neither. -/
theorem witness_HardwiredStepRunsItsOperation :
    ((at_ ⟨.detect, 7, 0⟩ [got 0x64]).phase ≠ .halted ∧ (at_ ⟨.detect, 7, 0⟩ [got 0x64]).ops = [] ∧
      (at_ ⟨.detect, 7, 0⟩ [got 0x64]).busOpen = true ∧
      nextAnswer (at_ ⟨.detect, 7, 0⟩ [got 0x64]).env ≠ .fail ∧
      listedOperation params ⟨.detect, 7, 0⟩ = some (.rd 0x04 0, ⟨.detect, 8, 0⟩)) ∧
    ((booting []).phase ≠ .halted ∧ (booting []).ops = [] ∧ (booting []).busOpen = false ∧
      listedOperation params (booting []).seq = some (.rstline false, ⟨.init, 1, 1⟩) ∧
      needsBus (.rstline false) = false) := by decide

theorem witness_DecodeOfEncode : defaultChipMap.wf = true ∧ (Instr.wr 0x3F 0xFF).wf = true ∧
    (Instr.delay 65535).wf = true := by decide

theorem witness_EncodeOfDecode :
    decode params ⟨.prim, [1, 0xFF, 0xFF]⟩ = .ok (.delay 65535) := by rfl

theorem witness_AddressByteFields : (0x00#8 ≤ 0x3F#8) ∧ (0x3F#8 ≤ 0x3F#8) := by decide

theorem witness_IndexAbove3FRefused : (running []).phase ≠ .halted ∧ ¬ (0x40#8 ≤ 0x3F#8) := by decide

/-- In `BRINGUP`, and in `POLLING` for `POLL`. -/
theorem witness_ClosedBusRefusesTransfers :
    (booting []).phase ≠ .halted ∧ (booting []).busOpen = false ∧ 0x3F#8 ≤ 0x3F#8 ∧
    { running [] with busOpen := false }.phase = .polling := by decide

/-- For `WrResult`, `RdResult` and `PseudoOperationsExpand`. -/
theorem witness_answered_transfer : (running [w]).phase ≠ .halted ∧ (running [w]).busOpen = true ∧
    0x3F#8 ≤ 0x3F#8 ∧ nextAnswer (running [w]).env = .ok 0xFF 0xFF := by decide

/-- The positions of the clauses of `ReadFillsTheRegisterOfItsStep`, one for each register, and one that
names none. -/
theorem witness_ReadFillsTheRegisterOfItsStep :
    ∀ p ∈ [(⟨.init, 3, 1⟩ : Pos), ⟨.init, 5, 0⟩, ⟨.detect, 7, 0⟩, ⟨.acquire, 6, 2⟩, ⟨.acquire, 7, 0⟩,
        ⟨.acquire, 8, 0⟩, ⟨.acquire, 9, 0⟩, ⟨.acquire, 9, 1⟩, ⟨.acquire, 9, 2⟩, ⟨.acquire, 9, 3⟩,
        ⟨.acquire, 9, 4⟩, ⟨.acquire, 9, 5⟩],
      ∃ t, exec (.rd 0x3F 0) (at_ p [got 0xAB]) = .next t ∧
        decide (nextAnswer (at_ p [got 0xAB]).env = .ok 0 0xAB) = true := by
  intro p hp
  simp only [List.mem_cons, List.not_mem_nil, or_false] at hp
  rcases hp with rfl | rfl | rfl | rfl | rfl | rfl | rfl | rfl | rfl | rfl | rfl | rfl <;>
    exact of_answers (by decide)

theorem witness_FirstReceivedByteIgnored :
    (∃ t, exec (.rd 0x37 0) (running [.ok 0x5A 0x8D]) = .next t ∧ t.bus.rx0 == 0x5A) ∧
    (∃ t, exec (.rd 0x37 0) { running [.ok 0x5A 0x8D] with env := (running [.ok 0x8D 0x8D]).env } =
      .next t ∧ t.bus.rx0 == 0x8D) :=
  ⟨of_answers (p := fun t => t.bus.rx0 == 0x5A) (by decide),
    of_answers (p := fun t => t.bus.rx0 == 0x8D) (by decide)⟩

theorem witness_FailedTransferRaises :
    (running [.fail]).phase ≠ .halted ∧ (running [.fail]).busOpen = true ∧ 0x3F#8 ≤ 0x3F#8 ∧
    nextAnswer (running [.fail]).env = .fail ∧ (running [.fail]).seq.routine = .poll ∧
    (at_ ⟨.none, 0, 0⟩ [.fail]).seq.routine = .none := by decide

theorem witness_FailedTransferEndsItsRoutine :
    nextAnswer (running [.fail]).env = .fail ∧ (running [.fail]).busOpen = true ∧ 0x3F#8 ≤ 0x3F#8 ∧
    (at_ ⟨.init, 3, 0⟩ [.fail]).retriesLeft = 0 ∧
    { at_ ⟨.detect, 1, 0⟩ [.fail] with link := some ⟨.poll, 2, 0⟩ }.link = some ⟨.poll, 2, 0⟩ ∧
    { at_ ⟨.acquire, 1, 0⟩ [.fail] with link := some ⟨.poll, 3, 1⟩ }.link = some ⟨.poll, 3, 1⟩ := by
  decide

/-- Both transactions answered; the read failed; the write failed. -/
theorem witness_SetbitsResult :
    ((running [got 0x80, w]).phase ≠ .halted ∧ (running [got 0x80, w]).busOpen = true ∧
      0x3F#8 ≤ 0x3F#8) ∧
    (nextAnswer (running [got 0x80, w]).env = .ok 0 0x80 ∧
      nextAnswer (popAnswer (running [got 0x80, w]).env) = .ok 0xFF 0xFF) ∧
    nextAnswer (running [.fail]).env = .fail ∧
    (nextAnswer (running [got 0x80, .fail]).env = .ok 0 0x80 ∧
      nextAnswer (popAnswer (running [got 0x80, .fail]).env) = .fail) := by decide

/-- For `DelayResult`, `NowResult`, `RstlineAndBusopenResults`, `EmitResult` and `UidAnswerResult`: a state
that is not halted, at each of the positions of `NowResult`; and a checksum byte one bit off. -/
theorem witness_running : (running []).phase ≠ .halted ∧ (at_ ⟨.acquire, 6, 0⟩ []).phase ≠ .halted ∧
    (at_ ⟨.poll, 4, 0⟩ []).phase ≠ .halted ∧ (0x22#8 ≠ 0x04#8 ^^^ 0xA3#8 ^^^ 0x9F#8 ^^^ 0x1B#8) := by
  decide

/-- An operation, a step, and a sequence with a delay of 0 and other operations before and after it. -/
theorem witness_ClockLaws :
    answers (exec .poll (running [.fail])) (fun _ => true) = true ∧
    answers (step (running [])) (fun _ => true) = true ∧
    (∃ s1, exec .now (running [w, w]) = .next s1 ∧
      answers (performAll [.flush, .delay 3] s1) (fun s2 =>
        answers (exec (.delay 0) s2) fun s3 => answers (performAll [.now, .flush] s3) fun _ => true) =
        true) :=
  ⟨by decide, by decide, of_answers (p := fun s1 => answers (performAll [.flush, .delay 3] s1) fun s2 =>
    answers (exec (.delay 0) s2) fun s3 => answers (performAll [.now, .flush] s3) fun _ => true)
    (by decide)⟩

theorem witness_CardFramesLoadTheFifo : (running [w, w, w]).phase ≠ .halted ∧
    (running [w, w, w]).busOpen = true ∧
    (running [w, w, w]).env.answers = .ok 0xFF 0xFF :: .ok 0xFF 0xFF :: .ok 0xFF 0xFF :: [] := by decide

theorem witness_ChecksumErrorDetection : (0x01 : Byte) ∈ singleBits ∧ (0x80 : Byte) ∈ singleBits := by
  decide

theorem witness_InitSucceeds :
    (booting [w, got 0x8D, w, got 0x92, w, w, w, w, w, w, got 0x80, w]).phase = .bringup ∧
    [(0xFF, 0xFF), (0xFF, 0xFF), (0xFF, 0xFF), (0xFF, 0xFF), (0xFF, 0xFF), ((0xFF, 0xFF) : Byte × Byte)].length =
      params.chip.configWrites.length ∧ (0x8D : Byte) = 0x8D ∧ (0x92 : Byte) ≠ 0x00 ∧
    (0x92 : Byte) ≠ 0xFF := by decide

theorem witness_InitSelfTestFailureHalts :
    (booting [w, got 0x8C]).phase = .bringup ∧ (booting [w, got 0x8C]).retriesLeft = 0 ∧
    (booting [w, got 0x8C]).env.answers = .ok 0xFF 0xFF :: .ok 0 0x8C :: [] ∧ (0x8C : Byte) ≠ 0x8D := by
  decide

theorem witness_InitWithoutChipHalts :
    ∀ v ∈ [(0x00 : Byte), 0xFF], (booting [w, got 0x8D, w, got v]).phase = .bringup ∧
      (booting [w, got 0x8D, w, got v]).retriesLeft = 0 ∧
      (booting [w, got 0x8D, w, got v]).env.answers =
        .ok 0xFF 0xFF :: .ok 0 0x8D :: .ok 0xFF 0xFF :: .ok 0 v :: [] ∧ (v = 0x00 ∨ v = 0xFF) := by
  decide

theorem witness_InitAlwaysEnds : (booting []).phase = .bringup := rfl

/-- The trace of P1 has no failure, reads the scratch register as 0x8D and the version as 0x92. -/
theorem witness_WorkingChipIsBroughtUp :
    ∃ t, exec .init (booting [w, got 0x8D, w, got 0x92, w, w, w, w, w, w, got 0x80, w]) = .next t ∧
      ∀ ev ∈ t.trace.drop 0, isBusFailure ev = false ∧ ∀ r0 r1,
        (ev = didRead params params.chip.tMode r0 r1 → r1 = 0x8D) ∧
        (ev = didRead params params.chip.version r0 r1 → r1 ≠ 0x00 ∧ r1 ≠ 0xFF) := by
  obtain ⟨t, ht, hp⟩ := of_answers (p := fun t => decide (t.trace =
      [.rst false, .delayed 100, .rst true, .delayed 50, .busOpened, .xfer 0x54 0x8D w,
        .xfer 0xD4 0x00 (got 0x8D), .xfer 0x02 0x0F w, .delayed 50, .xfer 0xEE 0x00 (got 0x92),
        .xfer 0x54 0x8D w, .xfer 0x56 0x3E w, .xfer 0x5A 0x1E w, .xfer 0x58 0x00 w,
        .xfer 0x2A 0x40 w, .xfer 0x22 0x3D w, .xfer 0xA8 0x00 (got 0x80), .xfer 0x28 0x83 w]))
    (show answers (exec .init (booting [w, got 0x8D, w, got 0x92, w, w, w, w, w, w, got 0x80, w])) _ =
      true by decide)
  refine ⟨t, ht, ?_⟩
  rw [of_decide_eq_true hp]
  simp [isBusFailure, didRead, w, got, show addrByte params.chip.tMode.toByte true = 0xD4 by decide,
    show addrByte params.chip.version.toByte true = 0xEE by decide]

theorem witness_FailedInitIsRetried :
    { booting [w, got 0x00] with retriesLeft := 1 }.retriesLeft = 0 + 1 ∧
    ∃ t, runSteps initSteps { booting [w, got 0x00] with retriesLeft := 1 } =
      .raised (.transportUnresponsive 0x00) t := ⟨rfl, _, rfl⟩

theorem witness_RoutinesBelongToTheirPhase :
    (running []).phase = .polling ∧ (booting []).phase = .bringup := by decide

theorem witness_DetectResult : (running (detectScript 0x20)).phase ≠ .halted ∧
    (running (detectScript 0x20)).busOpen = true ∧
    (running (detectScript 0x20)).env.answers = .ok 0xFF 0xFF :: .ok 0xFF 0xFF :: .ok 0xFF 0xFF ::
      .ok 0xFF 0xFF :: .ok 0xFF 0xFF :: .ok 0 0x20 :: .ok 0xFF 0xFF :: [] := by decide

/-- For `RoutinesStopAtABusFailure`, `DETECT` and the writes of `ACQUIRE`: the first and the last of the
seven transactions fails. -/
theorem witness_RoutinesStopAtABusFailure_writes :
    ([] : List (Byte × Byte)).length < 7 ∧ (List.replicate 6 ((0xFF, 0xFF) : Byte × Byte)).length < 7 ∧
    (running [w, w, w, w, w, w, .fail]).env.answers =
      (List.replicate 6 ((0xFF, 0xFF) : Byte × Byte)).map (fun r => Answer.ok r.1 r.2) ++ .fail :: [] := by
  decide

/-- For the polls and the reads after them: the 100th poll fails, 99 ms after the start; the first and the
last of the seven reads fails. -/
theorem witness_RoutinesStopAtABusFailure_reads :
    (∀ r ∈ List.replicate 99 ((0, 0x44) : Byte × Byte), NoFlag params r) ∧
    (running []).env.ticks = 0 :: (List.replicate 100 0 ++ List.replicate 99 0) ∧
    (List.replicate 100 0).length = (List.replicate 99 ((0, 0x44) : Byte × Byte)).length + 1 ∧
    (List.replicate 100 0).sum + (List.replicate 99 ((0, 0x44) : Byte × Byte)).length < 100 ∧
    (0x20 : Byte) &&& params.chip.irqRx ≠ 0 ∧ ([] : List (Byte × Byte)).length < 7 ∧
    [((0, 0xEC) : Byte × Byte), (0, 5), (0, 1), (0, 2), (0, 3), (0, 4)].length < 7 ∧
    (0xEC : Byte) &&& 0x13 = 0 ∧ 5 ≤ (5 : Byte).toNat := by
  refine ⟨fun r hr => ?_, rfl, by simp, by simp, by decide⟩
  rw [(List.mem_replicate.1 hr).2]
  exact ⟨by decide, by decide⟩

/-- For `INIT`: the first and the last of its twelve transactions fails. -/
theorem witness_RoutinesStopAtABusFailure_init :
    (booting [.fail]).phase = .bringup ∧ (booting [.fail]).retriesLeft = 0 ∧
    ([] : List (Byte × Byte)).length < 6 + params.chip.configWrites.length ∧
    (List.replicate 11 ((0, 0x8D) : Byte × Byte)).length < 6 + params.chip.configWrites.length ∧
    ((0, 0x8D) : Byte × Byte).2 = 0x8D ∧ ((0, 0x8D) : Byte × Byte).2 ≠ 0x00 ∧
    ((0, 0x8D) : Byte × Byte).2 ≠ 0xFF := by decide

/-- For `DetectFrame`, `AcquireFrame` and `PollCompletes`, with every answer free. -/
theorem witness_open_bus : (running []).phase ≠ .halted ∧ (running []).busOpen = true ∧
    (running []).phase = .polling := by decide

/-- The latest poll that `AcquireResult` admits, the first or the 100th, and the least fill level. -/
theorem witness_AcquireResult :
    (running (acquireScript uidA 0x23)).params.acqIdleAfter = false ∧
    (running (acquireScript uidA 0x23)).env.answers.length = 15 ∧
    ([] : List Nat).sum + ([] : List (Byte × Byte)).length + 99 < 100 ∧
    (List.replicate 99 0).sum + (List.replicate 99 ((0, 0x44) : Byte × Byte)).length + 0 < 100 ∧
    (0x20 : Byte) &&& params.chip.irqRx ≠ 0 ∧ (0xEC : Byte) &&& 0x13 = 0 ∧ 5 ≤ (0x05 : Byte).toNat ∧
    (0x23 : Byte) = 0x04 ^^^ 0xA3 ^^^ 0x9F ^^^ 0x1B := by decide

/-- The deadline at exactly 100 ms, with no poll and after 100 polls (vector A14); the timer flag alone one
ms before it. -/
theorem witness_AcquireTimesOut :
    (List.replicate 7 ((0xFF, 0xFF) : Byte × Byte)).length = 7 ∧
    (running (sevenWrites ++ [got 0x01])).env.answers =
      (List.replicate 7 ((0xFF, 0xFF) : Byte × Byte)).map (fun r => Answer.ok r.1 r.2) ++ ([] ++ [got 0x01]) ∧
    { (running []).env with ticks := [0, 100] }.ticks = 0 :: ([] ++ 100 :: []) ∧
    (100 ≤ ([] : List Nat).sum + ([] : List (Byte × Byte)).length + 100) ∧
    ((List.replicate 100 0).sum + (List.replicate 100 ((0, 0x44) : Byte × Byte)).length ≤ 100 ∧
      100 ≤ (List.replicate 100 0).sum + (List.replicate 100 ((0, 0x44) : Byte × Byte)).length + 0) ∧
    ([] : List Nat).sum + ([] : List (Byte × Byte)).length + 99 < 100 ∧
    (0x01 : Byte) &&& params.chip.irqRx = 0 ∧ (0x01 : Byte) &&& params.chip.irqTimer ≠ 0 := by decide

/-- One bad bit in the error register; a level of four; a checksum one bit off; no poll before, or 99 (the
polls of `witness_RoutinesStopAtABusFailure_reads`). -/
theorem witness_AcquireChecksInOrder :
    ([99] : List Nat).sum + ([] : List (Byte × Byte)).length < 100 ∧
    (0x21 : Byte) &&& params.chip.irqRx ≠ 0 ∧ (0x10 : Byte) &&& 0x13 ≠ 0 ∧ (0xEC : Byte) &&& 0x13 = 0 ∧
    (0x04 : Byte).toNat < 5 ∧ 5 ≤ (0x05 : Byte).toNat ∧
    (0x22 : Byte) ≠ 0x04 ^^^ 0xA3 ^^^ 0x9F ^^^ 0x1B := by decide

/-- For `AcquireTransactionCount` and `AcquireOkMeansChecked`. -/
theorem witness_acquire_succeeds : (running (acquireScript uidA 0x23)).params.acqIdleAfter = false ∧
    ∃ t, exec .acquire (running (acquireScript uidA 0x23)) = .next t ∧ t.samples.acqOk = true :=
  ⟨rfl, of_answers (p := fun t => t.samples.acqOk) (by decide)⟩

/-- The running block under `ACQ_IDLE_AFTER`. -/
def idling (as : List Answer) : State :=
  { running as with params := { params with acqIdleAfter := true } }

theorem witness_AcquireIdleAfterAddsOneWrite :
    (idling (acquireScript uidA 0x23 ++ [w])).params.acqIdleAfter = true ∧
    ∃ t, exec .acquire { idling (acquireScript uidA 0x23 ++ [w]) with
        params := { (idling (acquireScript uidA 0x23 ++ [w])).params with acqIdleAfter := false } } =
        .next t ∧
      decide (t.trace.getLast? = some (didRead params params.chip.fifoData 0 0x23) ∧
        nextAnswer t.env = .ok 0xFF 0xFF) = true :=
  ⟨rfl, of_answers (p := fun t => decide
    (t.trace.getLast? = some (didRead params params.chip.fifoData 0 0x23) ∧
      nextAnswer t.env = .ok 0xFF 0xFF)) (by decide)⟩

theorem witness_DeadlineEndsThePollLoop : acquireLaps ≤ acquireLaps ∧
    (running []).env.clock = some 1000 ∧
    { running [] with samples := { (running []).samples with acqT0 := 1000 } }.samples.acqT0 ≤ 1000 := by
  decide

/-- No card while one was present; a card that was present already; a bus failure. -/
theorem witness_PollWithoutRisingEdge : (running []).phase = .polling ∧
    (∃ d, exec .detect (running (detectScript 0x04)) = .next d ∧ d.samples.detS == .absent) ∧
    (∃ d, exec .detect { running (detectScript 0x64) with pres := ⟨.present, some uidA, 0⟩ } = .next d ∧
      (d.samples.detS == .present && d.pres.presence == .present)) ∧
    (∃ d, exec .detect (running [.fail]) = .next d ∧ d.samples.detS == .busFault) :=
  ⟨rfl, of_answers (p := fun d => d.samples.detS == .absent) (by decide),
    of_answers (p := fun d => d.samples.detS == .present && d.pres.presence == .present) (by decide),
    of_answers (p := fun d => d.samples.detS == .busFault) (by decide)⟩

theorem witness_PollFailedAcquisition : (running []).pres.presence = .absent ∧
    ∃ d, exec .detect (running (detectScript 0x64 ++ [.fail])) = .next d ∧
      (d.samples.detS == .present && answers (exec .acquire d) fun a => !a.samples.acqOk) :=
  ⟨rfl, of_answers (p := fun d => d.samples.detS == .present &&
    answers (exec .acquire d) fun a => !a.samples.acqOk) (by decide)⟩

/-- A cycle in which the acquisition succeeds, with what was last reported and when; the clock shows 5000
in step 4. -/
def cycle (u : Uid) (c : Byte) (lastUid : Option Uid) (lastTs : Time) : State :=
  { running (detectScript 0x64 ++ acquireScript u c) with
    pres := ⟨.absent, lastUid, lastTs⟩
    env := ⟨detectScript 0x64 ++ acquireScript u c, 0, [0, 0, 0], 0, some 4975⟩ }

/-- Whether the hypotheses of `PollReportsNewCard` up to its two clauses are met, with `p` of the state
after the acquisition. -/
def acquires (s : State) (p : State → Bool) : Bool :=
  answers (exec .detect s) fun d =>
    d.samples.detS == .present && answers (exec .acquire d) fun a => a.samples.acqOk && p a

/-- The same block under `TS_BITS = 13`, where timestamps wrap at 8192. -/
def wrapping (s : State) : State := { s with params := { s.params with tsBits := some 13 } }

/-- Under `TS_BITS = 13`: a last report at 8191, 5001 ms before 5000 modulo 2^13, and one at 1, 4999 ms
before it. -/
theorem witness_PollReportsNewCard_wraps :
    (wrapping (cycle uidA 0x23 (some uidA) 8191)).params.tsBits = some 13 ∧
    acquires (wrapping (cycle uidA 0x23 (some uidA) 8191))
      (fun a => a.answer.uid == uidA && nextNow a.env % 2 ^ 13 == 5000) = true ∧
    ((5001 + 8191) % 2 ^ 13 = 5000 ∧ 5001 < 2 ^ 13 ∧ 5000 ≤ 5001) ∧
    ((4999 + 1) % 2 ^ 13 = 5000 ∧ 4999 < 2 ^ 13 ∧ 4999 < 5000) :=
  ⟨rfl, by decide, by decide, by decide⟩

/-- Nothing reported yet; another card; the same card after exactly 5000 ms and after 4999 ms. -/
theorem witness_PollReportsNewCard :
    (cycle uidA 0x23 none 0).params.tsBits = none ∧ (cycle uidA 0x23 none 0).phase = .polling ∧
    acquires (cycle uidA 0x23 none 0) (fun _ => true) = true ∧
    acquires (cycle uidB 0x22 (some uidA) 4990) (fun a => a.answer.uid != uidA) = true ∧
    acquires (cycle uidA 0x23 (some uidA) 0)
      (fun a => a.answer.uid == uidA && decide (5000 ≤ nextNow a.env - 0)) = true ∧
    acquires (cycle uidA 0x23 (some uidA) 1)
      (fun a => a.answer.uid == uidA && decide (nextNow a.env - 1 < 5000)) = true :=
  ⟨rfl, rfl, by decide, by decide, by decide, by decide⟩

theorem witness_HaltedPerformsNothing : { running [] with phase := .halted }.phase = .halted := rfl

/-! ### Witnesses for the whole-machine rules -/

/-- At `INIT` step 3c after the value `v` was read back. -/
def inInit (v : Byte) : State :=
  { booting [] with
    seq := ⟨.init, 3, 2⟩, busOpen := true, rstLine := true
    samples := { (booting []).samples with probeS := v } }

theorem inInit_inv (v : Byte) : Inv (inInit v) where
  noOps := rfl
  placed := ⟨rfl, rfl, rfl, fun _ => rfl, fun _ => rfl, ⟨rfl, rfl⟩, rfl⟩
  reported := ⟨rfl, rfl⟩
  past := Nat.zero_le _

/-- For `StepKeepsInvariant`, `InvariantStepAnswers` and the halting clause of `PhaseTransitions`. -/
theorem witness_PhaseTransitions_halt : Inv (inInit 0x8C) ∧ (inInit 0x8C).phase ≠ .halted ∧
    ∃ t, step (inInit 0x8C) = .next t ∧ t.phase == .halted :=
  ⟨inInit_inv _, by decide, of_answers (p := fun t => t.phase == .halted) (by decide)⟩

/-- At `INIT` step 7. -/
def initDone : State := { booting [] with seq := ⟨.init, 7, 0⟩, busOpen := true, rstLine := true }

theorem witness_PhaseTransitions_polling : Inv initDone ∧
    ∃ t, step initDone = .next t ∧ t.phase == .polling :=
  ⟨⟨rfl, ⟨rfl, rfl, rfl, fun _ => rfl, fun _ => rfl, ⟨rfl, rfl⟩, rfl⟩, ⟨rfl, rfl⟩, Nat.zero_le _⟩,
    of_answers (p := fun t => t.phase == .polling) (by decide)⟩

/-- At `POLL` step `n` of a cycle with a rising edge and a checked card. -/
def inPoll (n : Nat) : State :=
  { at_ ⟨.poll, n, 0⟩ [] with
    answer := ⟨uidA, 0x23, 0x23⟩, acqState := .valid
    samples := { (running []).samples with detS := .present, acqOk := true, nowS := 1000 } }

theorem uidA_checked : checksum uidA = 0x23 := by decide

theorem inPoll_inv (n : Nat) (h : n = 6 ∨ n = 7) : Inv (inPoll n) where
  noOps := rfl
  placed := by
    refine ⟨rfl, rfl, rfl, .inl ⟨rfl, ?_, rfl, fun _ _ => ⟨rfl, rfl⟩, ?_, fun _ _ => ⟨rfl, uidA_checked⟩,
      fun _ _ => le_rfl⟩⟩
    · rcases h with rfl | rfl <;> rfl
    · intro h3; rcases h with rfl | rfl <;> cases h3
  reported := ⟨rfl, rfl⟩
  past := Nat.zero_le _

theorem witness_ReportsComeFromCheckedCards : Inv (inPoll 6) ∧ CardChecked (inPoll 6) ∧
    ∃ t, step (inPoll 6) = .next t ∧ (reports t.trace).length == 1 :=
  ⟨inPoll_inv 6 (.inl rfl), ⟨rfl, by decide⟩,
    of_answers (p := fun t => (reports t.trace).length == 1) (by decide)⟩

theorem witness_PresenceTransitions_rise : Inv (inPoll 7) ∧
    ∃ t, step (inPoll 7) = .next t ∧ t.pres.presence == .present :=
  ⟨inPoll_inv 7 (.inr rfl), of_answers (p := fun t => t.pres.presence == .present) (by decide)⟩

/-- At `POLL` step 2 with the card gone. -/
def cardGone : State :=
  { at_ ⟨.poll, 2, 0⟩ [] with pres := ⟨.present, none, 0⟩ }

theorem witness_PresenceTransitions_fall : Inv cardGone ∧
    ∃ t, step cardGone = .next t ∧ t.pres.presence == .absent :=
  ⟨⟨rfl, ⟨rfl, rfl, rfl, .inl ⟨rfl, rfl, rfl, fun h => absurd h (by decide), fun h => absurd h (by decide),
      fun h => absurd h (by decide), fun h => absurd h (by decide)⟩⟩, ⟨rfl, rfl⟩, Nat.zero_le _⟩,
    of_answers (p := fun t => t.pres.presence == .absent) (by decide)⟩

/-- The first step from power-on writes the line; the step that opens the bus leaves it open. -/
theorem witness_OwnershipOfTheOutputs :
    ({ booting [] with rstLine := true }.ops = [] ∧
      ∃ t, step { booting [] with rstLine := true } = .next t ∧ t.rstLine == false) ∧
    ({ booting [] with seq := ⟨.init, 2, 0⟩ }.busOpen = false ∧
      ∃ t, step { booting [] with seq := ⟨.init, 2, 0⟩ } = .next t ∧ t.busOpen) ∧
    ∃ t, step (running [w]) = .next t ∧ t.busOpen :=
  ⟨⟨rfl, of_answers (p := fun t => t.rstLine == false) (by decide)⟩,
    ⟨rfl, of_answers (p := fun t => t.busOpen) (by decide)⟩,
    of_answers (p := fun t => t.busOpen) (by decide)⟩

theorem witness_StepsMakeInit : (booting []).phase = .bringup ∧ (booting []).seq = ⟨.init, 1, 0⟩ ∧
    (booting []).link = none ∧ (booting []).ops = [] := by decide

theorem witness_StepsMakeDetect :
    ∃ t, exec .detect { at_ ⟨.detect, 1, 0⟩ (detectScript 0x64) with link := some ⟨.poll, 2, 0⟩ } =
      .next t ∧ (t.samples.detS == .present && t.ops == [] && t.busOpen) :=
  of_answers (p := fun t => t.samples.detS == .present && t.ops == [] && t.busOpen) (by decide)

theorem witness_StepsMakePoll : (running []).phase = .polling ∧ (running []).seq = ⟨.poll, 1, 0⟩ ∧
    (running []).ops = [] ∧ (running []).busOpen = true := by decide

end Sys2Proof.Tests
end

section
/-! PROOFS. The statements of 00_scope.md: the words of the spec's encodings, the one-operation steps of the
step lists, and a rising edge of `POLL` with a card. -/

namespace Sys2Proof.Machine

open Sys2Proof.Safety

/-! ### Words written out from the spec -/

/-- Settles O3: each word is evaluated by the decoder of its format. -/
theorem specWordsDecode : Obligations.SpecWordsDecode :=
  ⟨rfl, rfl, rfl, rfl, rfl, rfl, rfl, rfl⟩

/-! ### The steps that are one operation (R9, R12, R50) -/

/-- With nothing placed a step is the sequencer's own (R12). -/
theorem step_eq_sequencerStep {s : State} (hp : s.phase ≠ .halted) (hops : s.ops = []) :
    step s = sequencerStep s := by simp [step, hp, hops]

/-- The open bus and an answer, which a transaction needs to complete (R81, R84). -/
def BusAnswers (s : State) : Prop := s.busOpen = true ∧ nextAnswer s.env ≠ .fail

theorem BusAnswers.answer {s : State} (h : BusAnswers s) : ∃ r0 r1, nextAnswer s.env = .ok r0 r1 := by
  cases hn : nextAnswer s.env with
  | fail => exact absurd hn h.2
  | ok r0 r1 => exact ⟨r0, r1, rfl⟩

theorem BusAnswers.wr_completes {s : State} (h : BusAnswers s) (a : RegIx) (v : Byte) :
    ∃ t, wr a.toByte v s = .ok t :=
  have ⟨_, _, hn⟩ := h.answer
  ⟨_, wr_ok (legalIndex_toByte a) h.1 hn⟩

theorem BusAnswers.rd_completes {s : State} (h : BusAnswers s) (a : RegIx) (dst : Dest) :
    ∃ t, rd a dst s = .ok t :=
  have ⟨_, _, hn⟩ := h.answer
  ⟨_, rdSending_ok (legalIndex_toByte a) h.1 hn⟩

/-- The sequencer's step is the operation `i`, which completes, and then the position `q`. -/
def StepIsOperation (s : State) (i : Instr) (q : Pos) : Prop :=
  ∃ t, exec i s = .next t ∧ sequencerStep s = .next (goto q t)

/-- An operation and a step made of the same piece agree when the piece completes. -/
theorem StepIsOperation.of_piece {s : State} {i : Instr} {q : Pos} {f : State → Res}
    (hp : s.phase ≠ .halted) (he : exec i s = perform f s)
    (hs : sequencerStep s = outcome (f s) (goto q)) (hf : ∃ t, f s = .ok t) :
    StepIsOperation s i q := by
  obtain ⟨t, ht⟩ := hf
  exact ⟨t, by rw [he, perform_running f hp, ht]; rfl, by rw [hs, ht]; rfl⟩

/-- The same for a piece that always completes, as one update of the state. -/
theorem StepIsOperation.of_update {s : State} {i : Instr} {q : Pos} {g : State → State}
    (hp : s.phase ≠ .halted) (he : exec i s = perform (fun s => .ok (g s)) s)
    (hs : sequencerStep s = .next (goto q (g s))) : StepIsOperation s i q :=
  .of_piece hp he hs ⟨g s, rfl⟩

/-- The same for a write to a register of the `ChipMap`. -/
theorem StepIsOperation.of_write {s : State} {i : Instr} {q : Pos} {a : RegIx} {v : Byte}
    (hp : s.phase ≠ .halted) (hb : BusAnswers s) (he : exec i s = perform (wr a.toByte v) s)
    (hs : sequencerStep s = outcome (wr a.toByte v s) (goto q)) : StepIsOperation s i q :=
  .of_piece hp he hs (hb.wr_completes a v)

/-- The same for a read of a register of the `ChipMap`. -/
theorem StepIsOperation.of_read {s : State} {i : Instr} {q : Pos} {a : RegIx} {dst : Dest}
    (hp : s.phase ≠ .halted) (hb : BusAnswers s) (he : exec i s = perform (rd a dst) s)
    (hs : sequencerStep s = outcome (rd a dst s) (goto q)) : StepIsOperation s i q :=
  .of_piece hp he hs (hb.rd_completes a dst)

/-- Each listed position, by what its operation is: an update of the state, a write or a read. The piece that
`exec` performs there is the one that the step list performs, so both sides are equal by computation. -/
theorem stepIsOperation_of_listed {s : State} {i : Instr} {q : Pos} (hp : s.phase ≠ .halted)
    (hl : listedOperation s.params s.seq = some (i, q)) (hb : needsBus i = true → BusAnswers s) :
    StepIsOperation s i q := by
  obtain ⟨⟨r, n, k⟩, u, rfl⟩ : ∃ p u, s = goto p u := ⟨s.seq, s, rfl⟩
  simp only [goto_params, goto_seq, listedOperation] at hl
  split at hl <;> cases hl
  -- `INIT` steps 1a to 5a (R91 to R96)
  · exact .of_update hp rfl rfl
  · exact .of_update hp rfl rfl
  · exact .of_update hp rfl rfl
  · exact .of_update hp rfl rfl
  · exact .of_update hp rfl rfl
  · exact .of_write hp (hb rfl) rfl rfl
  · exact .of_read hp (hb rfl) rfl rfl
  · exact .of_write hp (hb rfl) rfl rfl
  · exact .of_update hp rfl rfl
  · exact .of_read hp (hb rfl) rfl rfl
  -- `DETECT` steps 1 to 8 (R111 to R117)
  · exact .of_write hp (hb rfl) rfl rfl
  · exact .of_write hp (hb rfl) rfl rfl
  · exact .of_write hp (hb rfl) rfl rfl
  · exact .of_write hp (hb rfl) rfl rfl
  · exact .of_write hp (hb rfl) rfl rfl
  · exact .of_update hp rfl rfl
  · exact .of_read hp (hb rfl) rfl rfl
  · exact .of_write hp (hb rfl) rfl rfl
  -- `ACQUIRE` steps 1 to 5a, the poll loop's clock sample and wait, the reads of step 9 (R119 to R126)
  · exact .of_write hp (hb rfl) rfl rfl
  · exact .of_write hp (hb rfl) rfl rfl
  · exact .of_write hp (hb rfl) rfl rfl
  · exact .of_write hp (hb rfl) rfl rfl
  · exact .of_write hp (hb rfl) rfl rfl
  · exact .of_write hp (hb rfl) rfl rfl
  · exact .of_update hp rfl rfl
  · exact .of_update hp rfl rfl
  · exact .of_read hp (hb rfl) rfl rfl
  · exact .of_read hp (hb rfl) rfl rfl
  · exact .of_read hp (hb rfl) rfl rfl
  · exact .of_read hp (hb rfl) rfl rfl
  · exact .of_read hp (hb rfl) rfl rfl
  -- `POLL` steps 4 and 8 (R147, R154)
  · exact .of_update hp rfl rfl
  · exact .of_update hp rfl rfl

/-- Settles O5: the sequencer's step at a listed position is the operation, and with nothing placed it is the
step. -/
theorem hardwiredStepRunsItsOperation : Obligations.HardwiredStepRunsItsOperation := by
  intro s i q hp hops hl hb
  obtain ⟨t, he, hs⟩ := stepIsOperation_of_listed hp hl hb
  exact ⟨t, he, (step_eq_sequencerStep hp hops).trans hs⟩

/-! ### A rising edge of `POLL` with a card (R142 to R150) -/

/-- With the bus closed `DETECT` is refused (R81). -/
theorem detectRun_closed {s : State} (h : s.busOpen = false) :
    detectRun s = .refused .busNotOpen := by
  simp [detectRun, detectSteps, detect1, wr, xfer, h]

/-- With the bus closed `ACQUIRE` is refused (R81). -/
theorem acquireRun_closed {s : State} (h : s.busOpen = false) :
    acquireRun s = .refused .busNotOpen := by
  simp [acquireRun, acquireBody, acquireHead, acquire0, acquire1, wr, xfer, h]

/-- An operation that answers `t` was performed, and `t` is where it went on or what its raise led to. -/
theorem perform_eq_next {f : State → Res} {s t : State} (h : perform f s = .next t) :
    f s = .ok t ∨ ∃ e u, f s = .raised e u := by
  unfold perform at h
  split at h
  · cases h
  · cases hf : f s with
    | ok u => rw [hf] at h; cases h; exact .inl rfl
    | raised e u => exact .inr ⟨e, u, rfl⟩
    | refused q => rw [hf] at h; cases h

/-- A routine that is refused with the bus closed and completes quietly with it open: what it answers is
where it went on. -/
theorem routine_of_perform {f : State → Res} {s t : State}
    (hc : s.busOpen = false → f s = .refused .busNotOpen)
    (ho : s.busOpen = true → ∃ u, f s = .ok u ∧ Quiet s u) (h : perform f s = .next t) :
    f s = .ok t ∧ Quiet s t := by
  cases hb : s.busOpen with
  | false => rcases perform_eq_next h with hf | ⟨e, u, hf⟩ <;> simp [hc hb] at hf
  | true =>
    obtain ⟨u, hu, hq⟩ := ho hb
    rcases perform_eq_next h with hf | ⟨e, v, hf⟩
    · obtain rfl : u = t := by simpa [hu] using hf
      exact ⟨hu, hq⟩
    · simp [hu] at hf

theorem detectRun_of_exec {s d : State} (h : exec .detect s = .next d) :
    detectRun s = .ok d ∧ Quiet s d :=
  routine_of_perform detectRun_closed detectRun_completes h

theorem acquireRun_of_exec {s a : State} (h : exec .acquire s = .next a) :
    acquireRun s = .ok a ∧ Quiet s a :=
  routine_of_perform acquireRun_closed acquireRun_completes h

/-- A cycle with a rising edge is `DETECT`, `ACQUIRE`, the report of an acquired card, `PRESENT` and the delay
(R143 to R151). -/
theorem exec_poll_rise {s d a : State} (hp : s.phase = .polling) (hd : exec .detect s = .next d)
    (hdet : d.samples.detS = .present) (habs : s.pres.presence = .absent)
    (ha : exec .acquire d = .next a) :
    exec .poll s = .next
      { poll8 (poll7 (if a.samples.acqOk then pollReport a else a)) with link := none } := by
  obtain ⟨hd, hq⟩ := detectRun_of_exec hd
  obtain ⟨ha, -⟩ := acquireRun_of_exec ha
  simp [exec, execPoll, perform, pollRun, hp, hd, pollEdge, hdet, hq.pres, habs, pollRise, ha]

/-- `POLL` 4 in full: `now_s`, the clock and the trace (R147). -/
theorem poll4_eq (s : State) : poll4 s = { s with
    samples := { s.samples with nowS := stamp s.params (nextNow s.env) }
    env := popNow s.env
    trace := s.trace ++ [.clock (nextNow s.env)] } := rfl

theorem pollReport_of_due {s : State} (h : emitDue (poll4 s) = true) :
    pollReport s = poll6 (poll4 s) := by simp [pollReport, h]

theorem pollReport_of_not_due {s : State} (h : ¬ emitDue (poll4 s) = true) :
    pollReport s = poll4 s := by simp [pollReport, h]

/-- R149: nothing reported yet and another UID are both that the stored one is not this one. -/
theorem emitDue_iff (s : State) : emitDue s = true ↔ s.pres.lastUid ≠ some s.answer.uid ∨
    tDedup ≤ elapsed s.params s.samples.nowS s.pres.lastTs := by
  unfold emitDue
  cases s.pres.lastUid with
  | none => simp
  | some u => simp [eq_comm (a := u)]

/-- A difference modulo `m` is the one value below `m` that leads back (R76). -/
theorem wrapped_difference {w l x m : Nat} (hw : w < m) (hx : (w + l) % m = x) :
    (x + m - l % m) % m = w := by
  have hl : l % m < m := Nat.mod_lt l (by omega)
  rw [Nat.add_mod_eq_ite, Nat.mod_eq_of_lt hw] at hx
  split at hx
  · rw [show x + m - l % m = w by omega, Nat.mod_eq_of_lt hw]
  · rw [show x + m - l % m = w + m by omega, Nat.add_mod_right, Nat.mod_eq_of_lt hw]

/-- Settles O49: the cycle is the report of the state after `ACQUIRE`, and R149 decides by the stored UID and
the window whether it emits. -/
theorem pollReportsNewCard : Obligations.PollReportsNewCard := by
  intro s d a nowS window hp hd hdet habs ha hok hw
  have hq := (detectRun_of_exec hd).2.trans (acquireRun_of_exec ha).2
  obtain ⟨hst, hel⟩ : stamp a.params (nextNow a.env) = nowS ∧
      elapsed a.params nowS s.pres.lastTs = window := by
    rw [hq.params]
    rcases hw with ⟨hb, rfl, rfl⟩ | ⟨n, hb, rfl, hlt, hmod⟩
    · simp [stamp, elapsed, hb]
    · simp [stamp, elapsed, hb, wrapped_difference hlt hmod]
  have hdue : emitDue (poll4 a) = true ↔ s.pres.lastUid ≠ some a.answer.uid ∨ 5000 ≤ window := by
    simp [emitDue_iff, poll4_eq, hst, hel, hq.pres, tDedup]
  rw [exec_poll_rise hp hd hdet habs ha, if_pos hok]
  constructor
  · intro hor
    have he : emitDue (poll4 a) = true := by
      rcases hor with h | h
      · simp [hdue, h]
      · exact hdue.2 h
    rw [pollReport_of_due he, poll4_eq, hst]
    simp [poll6, poll7, poll8, goto, delay, log, emit, tPoll]
  · intro ⟨hu, hlt⟩
    have he : ¬ emitDue (poll4 a) = true := by simp [hdue, hu, hlt]
    rw [pollReport_of_not_due he, poll4_eq, hst]
    simp [poll7, poll8, goto, delay, log, tPoll, hq.pres]

end Sys2Proof.Machine
end

section
/-! PROOFS. What one step of the sequencer can do, and the statements of 10_state.md that follow from it: the
invariant of R27, the transitions of R11 and R18, the ownership of R26. -/

namespace Sys2Proof.Machine

open Sys2Proof.Safety

/-! ### What a piece can do, whether or not it is refused -/

/-- `Res.Does` without its first part: a piece that is refused because the bus is closed (R81) has this too. -/
def Res.Only (K : Err → Bool) (P : State → Prop) : Res → Prop
  | .ok s => P s
  | .raised e s => P s ∧ K e = true ∧ s.lastError = e.code
  | .refused _ => True

theorem Res.Does.only {K : Err → Bool} {P : State → Prop} {r : Res} (h : r.Does K P) : r.Only K P := by
  cases r with
  | ok s => exact h
  | raised e s => exact h
  | refused q => exact h.elim

theorem Res.Only.mono {K K' : Err → Bool} {P Q : State → Prop} {r : Res} (h : r.Only K P)
    (hk : ∀ e, K e = true → K' e = true) (hpq : ∀ s, P s → Q s) : r.Only K' Q := by
  cases r with
  | ok s => exact hpq s h
  | raised e s => exact ⟨hpq s h.1, hk e h.2.1, h.2.2⟩
  | refused q => trivial

theorem Res.Only.imp {K : Err → Bool} {P Q : State → Prop} {r : Res} (h : r.Only K P)
    (hpq : ∀ s, P s → Q s) : r.Only K Q := h.mono (fun _ he => he) hpq

/-- A step that answers went on after its piece, or took the raise of its piece. -/
theorem outcome_eq_next {K : Err → Bool} {P : State → Prop} {r : Res} {k : State → State} {t : State}
    (hr : r.Only K P) (h : outcome r k = .next t) :
    (∃ u, P u ∧ t = k u) ∨ ∃ e u, P u ∧ K e = true ∧ u.lastError = e.code ∧ t = takeRaise e u := by
  cases r with
  | ok u => cases h; exact .inl ⟨u, hr, rfl⟩
  | raised e u => cases h; exact .inr ⟨e, u, hr.1, hr.2.1, hr.2.2, rfl⟩
  | refused q => cases h

/-- A quiet piece that also keeps what the cycle knows of the card: the result of `DETECT`, `acq_ok` and the
start of the poll loop. -/
structure Sampling (s t : State) : Prop extends Quiet s t where
  detS : t.samples.detS = s.samples.detS
  acqOk : t.samples.acqOk = s.samples.acqOk
  acqT0 : t.samples.acqT0 = s.samples.acqT0

theorem Sampling.refl (s : State) : Sampling s s := ⟨Quiet.refl s, rfl, rfl, rfl⟩

theorem Sampling.trans {s t u : State} (h : Sampling s t) (k : Sampling t u) : Sampling s u :=
  ⟨h.toQuiet.trans k.toQuiet, k.detS.trans h.detS, k.acqOk.trans h.acqOk, k.acqT0.trans h.acqT0⟩

theorem only_andThen {K : Err → Bool} {s : State} {r : Res} {f : State → Res}
    (h : r.Only K (Sampling s)) (hf : ∀ t, (f t).Only K (Sampling t)) :
    (r.andThen f).Only K (Sampling s) := by
  cases r with
  | ok t => exact (hf t).imp fun u hu => h.trans hu
  | raised e t => exact h
  | refused q => trivial

theorem sampling_setDest (d : Dest) (v : Byte) (s : State) : Sampling s (setDest d v s) :=
  ⟨quiet_setDest d v s, by cases d <;> rfl, by cases d <;> rfl, by cases d <;> rfl⟩

theorem sampling_delay (n : Nat) (s : State) : Sampling s (delay n s) := ⟨quiet_delay n s, rfl, rfl, rfl⟩

theorem sampling_now (s : State) : Sampling s (now .none s) := ⟨quiet_now .none s, rfl, rfl, rfl⟩

theorem sampling_acqState (a : AcqState) (s : State) : Sampling s { s with acqState := a } :=
  ⟨by constructor <;> simp, rfl, rfl, rfl⟩

theorem quiet_raised (e : Err) (s : State) :
    Quiet s (log (.raised e) { s with lastError := e.code }) := by constructor <;> simp

theorem only_raise {K : Err → Bool} {s t : State} (e : Err) (hk : K e = true) (h : Sampling s t) :
    (raise e t).Only K (Sampling s) :=
  ⟨h.trans ⟨quiet_raised e t, rfl, rfl, rfl⟩, hk, rfl⟩

theorem only_xfer (b0 b1 : Byte) (s : State) : (xfer b0 b1 s).Only isTransport (Sampling s) := by
  rcases xfer_cases b0 b1 s with ⟨_, hx⟩ | ⟨_, _, hx⟩ | ⟨r0, r1, _, _, hx⟩ <;> rw [hx]
  · trivial
  · exact only_raise _ rfl ⟨quiet_xferFailed b0 b1 s, rfl, rfl, rfl⟩
  · exact ⟨quiet_xferDone b0 b1 r0 r1 s, rfl, rfl, rfl⟩

theorem only_wr (a v : Byte) (s : State) : (wr a v s).Only isTransport (Sampling s) := by
  unfold wr
  split
  · exact only_xfer _ v s
  · trivial

theorem only_rd (a : RegIx) (dst : Dest) (s : State) : (rd a dst s).Only isTransport (Sampling s) := by
  unfold rd rdSending
  split
  · exact only_andThen (only_xfer _ _ s) fun t => sampling_setDest dst _ t
  · trivial

/-- Each piece of `ACQUIRE` may raise whatever the routine may. -/
theorem only_wr' (a v : Byte) (s : State) : (wr a v s).Only notInit (Sampling s) :=
  (only_wr a v s).mono notInit_of_isTransport fun _ h => h

theorem only_rd' (a : RegIx) (dst : Dest) (s : State) : (rd a dst s).Only notInit (Sampling s) :=
  (only_rd a dst s).mono notInit_of_isTransport fun _ h => h

theorem only_acquireTimeout {s t : State} (h : Sampling s t) :
    (acquireTimeout t).Only notInit (Sampling s) :=
  only_raise _ rfl (h.trans (sampling_acqState _ t))

theorem only_acquire5b (s : State) : (acquire5b s).Only notInit (Sampling s) :=
  only_andThen (only_wr' _ _ s) fun t => sampling_acqState _ t

theorem only_acquire6Deadline (s : State) : (acquire6Deadline s).Only notInit (Sampling s) := by
  unfold acquire6Deadline
  split
  · exact only_acquireTimeout (sampling_now s)
  · exact sampling_now s

theorem only_irqGate (s : State) : (irqGate s).Only notInit (Sampling s) := by
  unfold irqGate
  split
  · exact sampling_acqState _ s
  · split
    · exact only_acquireTimeout (Sampling.refl s)
    · exact Sampling.refl s

theorem only_acquire6Sample (s : State) : (acquire6Sample s).Only notInit (Sampling s) :=
  only_andThen (only_rd' _ _ s) only_irqGate

theorem only_errorGate (s : State) : (errorGate s).Only notInit (Sampling s) := by
  unfold errorGate
  split
  · exact only_raise _ rfl (sampling_acqState _ s)
  · exact Sampling.refl s

theorem only_acquire7 (s : State) : (acquire7 s).Only notInit (Sampling s) :=
  only_andThen ((only_rd' _ _ _).imp fun _ h => (sampling_acqState _ s).trans h) only_errorGate

theorem only_levelGate (s : State) : (levelGate s).Only notInit (Sampling s) := by
  unfold levelGate
  split
  · exact only_raise _ rfl (sampling_acqState _ s)
  · exact Sampling.refl s

theorem only_acquire8 (s : State) : (acquire8 s).Only notInit (Sampling s) :=
  only_andThen (only_rd' _ _ s) only_levelGate

/-- The three errors of `INIT` include a failed transaction (R160, R168). -/
theorem fatalInInit_of_isTransport (e : Err) (h : isTransport e = true) : fatalInInit e = true := by
  cases e <;> simp_all [isTransport, fatalInInit]

theorem only_initWr (a v : Byte) (s : State) : (wr a v s).Only fatalInInit (Sampling s) :=
  (only_wr a v s).mono fatalInInit_of_isTransport fun _ h => h

theorem only_initRd (a : RegIx) (dst : Dest) (s : State) : (rd a dst s).Only fatalInInit (Sampling s) :=
  (only_rd a dst s).mono fatalInInit_of_isTransport fun _ h => h

theorem only_init3c (s : State) : (init3c s).Only fatalInInit (Sampling s) := by
  unfold init3c
  split
  · exact only_raise _ rfl (Sampling.refl s)
  · exact Sampling.refl s

theorem only_init5b (s : State) : (init5b s).Only fatalInInit (Sampling s) := by
  unfold init5b
  split
  · exact only_raise _ rfl (Sampling.refl s)
  · exact Sampling.refl s

theorem only_init6b (s : State) : (init6b s).Only fatalInInit (Sampling s) :=
  only_andThen (only_initRd s.params.chip.txControl _ s) fun t => only_initWr _ _ t

/-! ### What a step can do -/

/-- `t` follows `s` with the mode, the outputs, the Presence State and the event port as they were. -/
structure Kept (s t : State) : Prop where
  phase : t.phase = s.phase
  busOpen : t.busOpen = s.busOpen
  rstLine : t.rstLine = s.rstLine
  pres : t.pres = s.pres
  params : t.params = s.params
  ops : t.ops = s.ops
  trace : s.trace <+: t.trace
  reports : reports t.trace = reports s.trace
  clock : ClockKept s.env t.env

theorem Quiet.kept {s t : State} (h : Quiet s t) : Kept s t :=
  ⟨h.phase, h.busOpen, h.rstLine, h.pres, h.params, h.ops, h.trace, h.reports, h.clock⟩

theorem Kept.trans {s t u : State} (h : Kept s t) (k : Kept t u) : Kept s u where
  phase := k.phase.trans h.phase
  busOpen := k.busOpen.trans h.busOpen
  rstLine := k.rstLine.trans h.rstLine
  pres := k.pres.trans h.pres
  params := k.params.trans h.params
  ops := k.ops.trans h.ops
  trace := h.trace.trans k.trace
  reports := k.reports.trans h.reports
  clock := ClockKept.trans h.clock k.clock

theorem kept_goto (p : Pos) (s : State) : Kept s (goto p s) := by constructor <;> simp

theorem kept_callSub (p q : Pos) (s : State) : Kept s (callSub p q s) := by
  constructor <;> simp [callSub]

theorem kept_returnToCaller (s : State) : Kept s (returnToCaller s) := by
  unfold returnToCaller
  split <;> constructor <;> simp

theorem kept_abortDetect (s : State) : Kept s (abortDetect s) := by constructor <;> simp [abortDetect]

theorem kept_restartInit (s : State) : Kept s (restartInit s) := by constructor <;> simp [restartInit]

theorem kept_afterSample (s : State) : Kept s (afterSample s) := by
  unfold afterSample
  split <;> exact kept_goto _ s

theorem kept_afterGate (s : State) : Kept s (afterGate s) := by
  unfold afterGate
  split
  · exact kept_goto _ s
  · exact kept_returnToCaller s

/-- Everything that a step of the sequencer can do to the mode, the outputs, the Presence State and the event
port: nothing, or one of seven things, each at its own position (R26). -/
inductive StepEffect (s : State) : State → Prop
  /-- Most steps. -/
  | kept {t : State} (h : Kept s t) : StepEffect s t
  /-- `INIT` 1a and 1c (R91). -/
  | line (l : Bool) (q : Pos) (hr : s.seq.routine = .init) (hn : s.seq.num = 1) :
    StepEffect s (goto q (rstLine l s))
  /-- `INIT` 2 (R92). -/
  | opened (q : Pos) (hs : s.seq = ⟨.init, 2, 0⟩) : StepEffect s (goto q (busOpen s))
  /-- `INIT` 7 (R99). -/
  | up (hs : s.seq = ⟨.init, 7, 0⟩) :
    StepEffect s { s with phase := .polling, seq := ⟨.poll, 1, 0⟩, link := none }
  /-- A raise in `INIT` with no attempt left (R168). -/
  | halted {u : State} (e : Err) (hu : Kept s u) (hr : s.seq.routine = .init) (h0 : s.retriesLeft = 0)
    (he : u.lastError = e.code) : StepEffect s (halt e u)
  /-- A falling edge at `POLL` 2 (R152). -/
  | fell (q : Pos) (hs : s.seq = ⟨.poll, 2, 0⟩) (hp : s.pres.presence = .present)
    (hd : s.samples.detS = .absent) : StepEffect s (goto q (pollFall s))
  /-- `POLL` 6 (R150). -/
  | emitted (q : Pos) (hs : s.seq = ⟨.poll, 6, 0⟩) : StepEffect s (goto q (poll6 s))
  /-- `POLL` 7 (R144). -/
  | rose (q : Pos) (hs : s.seq = ⟨.poll, 7, 0⟩) : StepEffect s (goto q (poll7 s))

/-- Taking a raise halts the block or leaves all this alone (R168, R118, R129). -/
theorem takeRaise_effect {s u : State} {e : Err} (hu : Quiet s u) (he : u.lastError = e.code) :
    StepEffect s (takeRaise e u) := by
  have hk := hu.kept
  unfold takeRaise
  rw [hu.seq]
  split
  next hr =>
    unfold abortInit
    split
    · split
      next h0 => exact .halted e hk hr (hu.retriesLeft ▸ h0) he
      next => exact .kept (hk.trans (kept_restartInit u))
    · exact .kept hk
  · split
    · exact .kept (hk.trans ((kept_abortDetect u).trans (kept_returnToCaller _)))
    · exact .kept hk
  · have ha := hk.trans (quiet_abortAcquire u).kept
    split
    · exact .kept (ha.trans (kept_goto _ _))
    · exact .kept (ha.trans (kept_returnToCaller _))
  · exact .kept hk
  · exact .kept hk

/-- A step made of a quiet piece. -/
theorem stepEffect_of_quiet {K : Err → Bool} {s t : State} {r : Res} {k : State → State}
    (hr : r.Only K (Quiet s)) (hk : ∀ u, Kept u (k u)) (h : outcome r k = .next t) : StepEffect s t := by
  obtain ⟨u, hu, rfl⟩ | ⟨e, u, hu, -, he, rfl⟩ := outcome_eq_next hr h
  · exact .kept (hu.kept.trans (hk u))
  · exact takeRaise_effect hu he

/-- A step made of a sampling piece that goes on at `q`. -/
theorem stepEffect_of_sampling {K : Err → Bool} {s t : State} {r : Res} {q : Pos}
    (hr : r.Only K (Sampling s)) (h : outcome r (goto q) = .next t) : StepEffect s t :=
  stepEffect_of_quiet (hr.imp fun _ hu => hu.toQuiet) (kept_goto q) h

theorem initStep_effect {s t : State} {n k : Nat} (hs : s.seq = ⟨.init, n, k⟩)
    (h : initStep n k s = .next t) : StepEffect s t := by
  unfold initStep at h
  split at h
  · cases h; exact .line false _ (by simp [hs]) (by simp [hs])
  · cases h; exact .kept ((quiet_delay _ s).kept.trans (kept_goto _ _))
  · cases h; exact .line true _ (by simp [hs]) (by simp [hs])
  · cases h; exact .kept ((quiet_delay _ s).kept.trans (kept_goto _ _))
  · cases h; exact .opened _ hs
  · exact stepEffect_of_sampling (only_initWr _ _ s) h
  · exact stepEffect_of_sampling (only_initRd _ _ s) h
  · exact stepEffect_of_sampling (only_init3c s) h
  · exact stepEffect_of_sampling (only_initWr _ _ s) h
  · cases h; exact .kept ((quiet_delay _ s).kept.trans (kept_goto _ _))
  · exact stepEffect_of_sampling (only_initRd _ _ s) h
  · exact stepEffect_of_sampling (only_init5b s) h
  · split at h
    · exact stepEffect_of_sampling (only_initWr _ _ s) h
    · split at h
      · exact stepEffect_of_sampling (only_init6b s) h
      · cases h
  · cases h; exact .up hs
  · cases h

theorem detectStep_effect {s t : State} {n k : Nat} (h : detectStep n k s = .next t) :
    StepEffect s t := by
  unfold detectStep at h
  split at h
  · exact stepEffect_of_sampling (only_wr _ _ s) h
  · exact stepEffect_of_sampling (only_wr _ _ s) h
  · exact stepEffect_of_sampling (only_wr _ _ s) h
  · exact stepEffect_of_sampling (only_wr _ _ s) h
  · exact stepEffect_of_sampling (only_wr _ _ s) h
  · cases h; exact .kept ((quiet_delay _ s).kept.trans (kept_goto _ _))
  · exact stepEffect_of_sampling (only_rd _ _ s) h
  · exact stepEffect_of_sampling (only_wr _ _ s) h
  · cases h; exact .kept (Kept.trans (by constructor <;> simp) (kept_returnToCaller _))
  · cases h

theorem acquireStep_effect {s t : State} {n k : Nat} (h : acquireStep n k s = .next t) :
    StepEffect s t := by
  unfold acquireStep at h
  split at h
  · cases h; exact .kept (Kept.trans (by constructor <;> simp) (kept_goto _ _))
  · exact stepEffect_of_sampling (only_wr _ _ s) h
  · exact stepEffect_of_sampling (only_wr _ _ s) h
  · exact stepEffect_of_sampling (only_wr _ _ s) h
  · exact stepEffect_of_sampling (only_wr _ _ s) h
  · exact stepEffect_of_sampling (only_wr _ _ s) h
  · exact stepEffect_of_sampling (only_wr _ _ s) h
  · exact stepEffect_of_sampling (only_acquire5b s) h
  · cases h; exact .kept ((quiet_now _ s).kept.trans (kept_goto _ _))
  · exact stepEffect_of_sampling (only_acquire6Deadline s) h
  · exact stepEffect_of_quiet
      ((only_acquire6Sample s).imp fun _ hu => hu.toQuiet) kept_afterSample h
  · cases h; exact .kept ((quiet_delay _ s).kept.trans (kept_goto _ _))
  · exact stepEffect_of_sampling (only_acquire7 s) h
  · exact stepEffect_of_sampling (only_acquire8 s) h
  · exact stepEffect_of_sampling (only_rd _ _ s) h
  · exact stepEffect_of_sampling (only_rd _ _ s) h
  · exact stepEffect_of_sampling (only_rd _ _ s) h
  · exact stepEffect_of_sampling (only_rd _ _ s) h
  · exact stepEffect_of_sampling (only_rd _ _ s) h
  · exact stepEffect_of_quiet (does_acquire10 s).only kept_afterGate h
  · exact stepEffect_of_quiet ((only_wr _ _ s).imp fun _ hu => hu.toQuiet)
      kept_returnToCaller h
  · cases h

/-- The five answers of `POLL` 2 (R142): a falling edge, or only the next position. -/
theorem pollDispatch_effect {s : State} (hs : s.seq = ⟨.poll, 2, 0⟩) :
    StepEffect s (pollDispatch s) := by
  unfold pollDispatch
  split
  · exact .kept (kept_goto _ s)
  next hd hp => exact .fell _ hs hp hd
  · exact .kept (kept_goto _ s)
  · exact .kept (kept_goto _ s)
  · exact .kept (kept_goto _ s)

theorem pollStep_effect {s t : State} {n k : Nat} (hs : s.seq = ⟨.poll, n, k⟩)
    (h : pollStep n k s = .next t) : StepEffect s t := by
  unfold pollStep at h
  split at h <;> cases h
  · exact .kept (kept_callSub _ _ s)
  · exact pollDispatch_effect hs
  · exact .kept (kept_callSub _ _ s)
  · split <;> exact .kept (kept_goto _ s)
  · exact .kept ((quiet_now _ s).kept.trans (kept_goto _ _))
  · split <;> exact .kept (kept_goto _ s)
  · exact .emitted _ hs
  · exact .rose _ hs
  · exact .kept ((quiet_delay _ s).kept.trans (kept_goto _ _))

theorem sequencerStep_effect {s t : State} (h : sequencerStep s = .next t) : StepEffect s t := by
  unfold sequencerStep at h
  split at h
  next hr => exact initStep_effect (by rw [← hr]) h
  next hr => exact pollStep_effect (by rw [← hr]) h
  · exact detectStep_effect h
  · exact acquireStep_effect h
  · cases h

/-- A step that answers is taken outside `HALTED` (R168). -/
theorem phase_of_step {s t : State} (h : step s = .next t) : s.phase ≠ .halted := by
  intro hp
  simp [step, hp] at h

theorem sequencerStep_of_step {s t : State} (hops : s.ops = []) (h : step s = .next t) :
    sequencerStep s = .next t := step_eq_sequencerStep (phase_of_step h) hops ▸ h

theorem stepEffect_of_step {s t : State} (hops : s.ops = []) (h : step s = .next t) : StepEffect s t :=
  sequencerStep_effect (sequencerStep_of_step hops h)

/-- Settles O57: each output is written by one of the effects of a step, which names its position. -/
theorem ownershipOfTheOutputs : Obligations.OwnershipOfTheOutputs := by
  intro s t hops h
  cases stepEffect_of_step hops h with
  | kept hk => simp [hk.rstLine, hk.busOpen, hk.pres, hk.params, hk.trace]
  | line l q hr hn => simp [hr, hn]
  | opened q hs => simp [hs]
  | up hs => simp
  | halted e hu hr h0 he => simp [halt, hu.rstLine, hu.busOpen, hu.pres, hu.params, hu.trace]
  | fell q hs hp hd => simp [pollFall, hs]
  | emitted q hs => simp [poll6, hs]
  | rose q hs => simp [poll7, hs]

end Sys2Proof.Machine
end

section
/-! PROOFS. The invariant of the machine's own runs (10_state.md rule R27): it holds at reset and every step
keeps it; the transitions of the mode and of the Presence State, and the reports, follow. -/

namespace Sys2Proof.Safety

open Sys2Proof.Machine

/-! ### Where the invariant places a running block -/

/-- What the invariant says of a state in `POLLING` but for its routine. -/
structure Polling (s : State) : Prop where
  phase : s.phase = .polling
  busOpen : s.busOpen = true
  rstLine : s.rstLine = true
  noCause : s.haltCause = .none

theorem Polling.quiet {s t : State} (h : Polling s) (hq : Quiet s t) : Polling t :=
  ⟨hq.phase.trans h.phase, hq.busOpen.trans h.busOpen, hq.rstLine.trans h.rstLine,
    hq.haltCause.trans h.noCause⟩

theorem Polling.goto {s : State} (h : Polling s) (p : Pos) : Polling (Machine.goto p s) :=
  ⟨h.phase, h.busOpen, h.rstLine, h.noCause⟩

theorem placed_of_bringup {s : State} (hp : s.phase = .bringup) (h : InInit s) : Placed s := by
  simpa [Placed, hp] using h

theorem placed_of_polling {s : State} (hp : Polling s) (h : InPoll s ∨ InDetect s ∨ InAcquire s) :
    Placed s := by simpa [Placed, hp.phase, hp.busOpen, hp.rstLine, hp.noCause] using h

/-- Outside `HALTED` the invariant has two cases. -/
theorem placed_cases {s : State} (h : Placed s) (hp : s.phase ≠ .halted) :
    (s.phase = .bringup ∧ InInit s) ∨ (Polling s ∧ (InPoll s ∨ InDetect s ∨ InAcquire s)) := by
  unfold Placed at h
  split at h
  next hb => exact .inl ⟨hb, h⟩
  next hq =>
    obtain ⟨hbus, hline, hcause, hin⟩ := h
    exact .inr ⟨⟨hq, hbus, hline, hcause⟩, hin⟩
  next hh => exact absurd hh hp

/-- Steps of `INIT` are taken in `BRINGUP` only, the others in `POLLING` only (R11, R12). -/
theorem Placed.bringup_of_init {s : State} (h : Placed s) (hp : s.phase ≠ .halted)
    (hr : s.seq.routine = .init) : s.phase = .bringup ∧ InInit s := by
  rcases placed_cases h hp with hi | ⟨-, hi | hi | hi⟩
  · exact hi
  · simp [hi.routine] at hr
  · simp [hi.routine] at hr
  · simp [hi.routine] at hr

theorem Placed.inPoll {s : State} (h : Placed s) (hp : s.phase ≠ .halted)
    (hr : s.seq.routine = .poll) : Polling s ∧ InPoll s := by
  rcases placed_cases h hp with ⟨-, hi⟩ | ⟨hq, hi | hi | hi⟩
  · simp [hi.routine] at hr
  · exact ⟨hq, hi⟩
  · simp [hi.routine] at hr
  · simp [hi.routine] at hr

theorem Placed.inDetect {s : State} (h : Placed s) (hp : s.phase ≠ .halted)
    (hr : s.seq.routine = .detect) : Polling s ∧ InDetect s := by
  rcases placed_cases h hp with ⟨-, hi⟩ | ⟨hq, hi | hi | hi⟩
  · simp [hi.routine] at hr
  · simp [hi.routine] at hr
  · exact ⟨hq, hi⟩
  · simp [hi.routine] at hr

theorem Placed.inAcquire {s : State} (h : Placed s) (hp : s.phase ≠ .halted)
    (hr : s.seq.routine = .acquire) : Polling s ∧ InAcquire s := by
  rcases placed_cases h hp with ⟨-, hi⟩ | ⟨hq, hi | hi | hi⟩
  · simp [hi.routine] at hr
  · simp [hi.routine] at hr
  · simp [hi.routine] at hr
  · exact ⟨hq, hi⟩

/-! ### The steps of `INIT` -/

/-- Ending an attempt after step 2: the lines stay as they are, and either the block halts with its cause or
the next attempt begins (R168; D24). -/
theorem InInit.raised {s u : State} {e : Err} (hp : s.phase = .bringup) (h : InInit s)
    (hn : 2 < s.seq.num) (hu : Quiet s u) (hf : fatalInInit e = true) (he : u.lastError = e.code) :
    Placed (takeRaise e u) := by
  rw [takeRaise_init (hu.seq ▸ h.routine) hf]
  have hline : u.rstLine = true := hu.rstLine.trans (h.line (.inl (by omega)))
  have hunseen := hu.pres ▸ h.unseen
  unfold abortInit
  split
  · have hbus : u.busOpen = true := hu.busOpen.trans (h.bus hn)
    have hcause : e.code = .transportError ∨ e.code = .transportUnresponsive ∨
        e.code = .chipNotDetected := by cases e <;> simp_all [fatalInInit, Err.code]
    exact ⟨rfl, rfl, he.symm, hcause, hline, hbus, hunseen⟩
  · exact placed_of_bringup (hu.phase.trans hp)
      ⟨rfl, rfl, rfl, fun _ => hline, by simp [restartInit], hunseen, hu.haltCause.trans h.noCause⟩

/-- A step after step 2 goes on with the lines as they are, or ends the attempt. -/
theorem InInit.advance {s t : State} {r : Res} {n k : Nat} (hp : s.phase = .bringup) (h : InInit s)
    (hn : 2 < s.seq.num) (hr : r.Only fatalInInit (Sampling s))
    (hq : initPosition s.params.chip.configWrites.length n k = true)
    (ht : outcome r (goto ⟨.init, n, k⟩) = .next t) : Placed t := by
  obtain ⟨u, hu, rfl⟩ | ⟨e, u, hu, hf, he, rfl⟩ := outcome_eq_next hr ht
  · refine placed_of_bringup (hu.phase.trans hp) ⟨rfl, ?_, ?_, fun _ => ?_, fun _ => ?_, ?_, ?_⟩
    · simpa [hu.params] using hq
    · simp [hu.link, h.link]
    · exact hu.rstLine.trans (h.line (.inl (by omega)))
    · exact hu.busOpen.trans (h.bus hn)
    · simpa [hu.pres] using h.unseen
    · exact hu.haltCause.trans h.noCause
  · exact h.raised hp hn hu.toQuiet hf he

theorem initStep_placed {s t : State} {n k : Nat} (hp : s.phase = .bringup) (h : InInit s)
    (hs : s.seq = ⟨.init, n, k⟩) (ht : initStep n k s = .next t) : Placed t := by
  have hline := h.line
  rw [hs] at hline
  unfold initStep at ht
  split at ht
  · cases ht
    exact placed_of_bringup hp ⟨rfl, rfl, h.link, by simp, by simp, h.unseen, h.noCause⟩
  · cases ht
    exact placed_of_bringup hp ⟨rfl, rfl, h.link, by simp, by simp, h.unseen, h.noCause⟩
  · cases ht
    exact placed_of_bringup hp ⟨rfl, rfl, h.link, fun _ => rfl, by simp, h.unseen, h.noCause⟩
  · cases ht
    exact placed_of_bringup hp ⟨rfl, rfl, h.link, fun _ => hline (.inr rfl), by simp, h.unseen, h.noCause⟩
  · cases ht
    exact placed_of_bringup hp
      ⟨rfl, rfl, h.link, fun _ => hline (.inl (by simp)), fun _ => rfl, h.unseen, h.noCause⟩
  · exact h.advance hp (by simp [hs]) (only_initWr _ _ s) rfl ht
  · exact h.advance hp (by simp [hs]) (only_initRd _ _ s) rfl ht
  · exact h.advance hp (by simp [hs]) (only_init3c s) rfl ht
  · exact h.advance hp (by simp [hs]) (only_initWr _ _ s) rfl ht
  · exact h.advance hp (by simp [hs]) (r := init4b s) (sampling_delay _ s) rfl ht
  · exact h.advance hp (by simp [hs]) (only_initRd _ _ s) rfl ht
  · exact h.advance hp (by simp [hs]) (only_init5b s) (by simp [initPosition]) ht
  · split at ht
    next w hw =>
      obtain ⟨hlt, -⟩ := List.getElem?_eq_some_iff.1 hw
      exact h.advance hp (by simp [hs]) (only_initWr _ _ s) (by simpa [initPosition] using hlt) ht
    next =>
      split at ht
      · exact h.advance hp (by simp [hs]) (only_init6b s) rfl ht
      · cases ht
  · cases ht
    have hline : s.rstLine = true := hline (.inl (by simp))
    have hbus : s.busOpen = true := h.bus (by simp [hs])
    exact placed_of_polling ⟨rfl, hbus, hline, h.noCause⟩
      (.inl ⟨rfl, rfl, rfl, by simp, by simp, by simp, by simp⟩)
  · cases ht

/-! ### The steps of `DETECT` -/

/-- After the call of `DETECT` the cycle is at its dispatch, where nothing is known yet (R141, R142). -/
theorem placed_at_dispatch {s : State} (hp : Polling s) (hs : s.seq = ⟨.poll, 2, 0⟩)
    (hl : s.link = none) : Placed s :=
  placed_of_polling hp (.inl ⟨by simp [hs], by simp [hs, pollPosition], hl, by simp [hs], by simp [hs],
    by simp [hs], by simp [hs]⟩)

theorem InDetect.advance {s t : State} {r : Res} {n : Nat} (hp : Polling s) (h : InDetect s)
    (hr : r.Only isTransport (Sampling s)) (hq : detectPosition n 0 = true)
    (ht : outcome r (goto ⟨.detect, n, 0⟩) = .next t) : Placed t := by
  obtain ⟨u, hu, rfl⟩ | ⟨e, u, hu, hf, -, rfl⟩ := outcome_eq_next hr ht
  · exact placed_of_polling ((hp.quiet hu.toQuiet).goto _) (.inr (.inl ⟨rfl, hq, hu.link.trans h.link⟩))
  · obtain ⟨hph, hbus, hline, hcause⟩ := hp.quiet hu.toQuiet
    rw [takeRaise_detect (hu.seq ▸ h.routine) (hu.link.trans h.link) hf]
    exact placed_at_dispatch ⟨hph, hbus, hline, hcause⟩ rfl rfl

theorem detectStep_placed {s t : State} {n k : Nat} (hp : Polling s) (h : InDetect s)
    (ht : detectStep n k s = .next t) : Placed t := by
  unfold detectStep at ht
  split at ht
  · exact h.advance hp (only_wr _ _ s) rfl ht
  · exact h.advance hp (only_wr _ _ s) rfl ht
  · exact h.advance hp (only_wr _ _ s) rfl ht
  · exact h.advance hp (only_wr _ _ s) rfl ht
  · exact h.advance hp (only_wr _ _ s) rfl ht
  · exact h.advance hp (r := detect6 s) (sampling_delay _ s) rfl ht
  · exact h.advance hp (only_rd _ _ s) rfl ht
  · exact h.advance hp (only_wr _ _ s) rfl ht
  · cases ht
    obtain ⟨hph, hbus, hline, hcause⟩ := hp
    simp only [returnToCaller, h.link]
    exact placed_at_dispatch ⟨hph, hbus, hline, hcause⟩ rfl rfl
  · cases ht

/-! ### The steps of `ACQUIRE` -/

/-- What the end of `ACQUIRE` needs: an `acq_ok` only from a checked answer (R127, R203). -/
structure Gated (s t : State) : Prop extends Quiet s t where
  detS : t.samples.detS = s.samples.detS
  checked : t.samples.acqOk = true → CardChecked t

theorem Sampling.gated {s t : State} (h : Sampling s t) (hs : s.samples.acqOk = false) : Gated s t :=
  ⟨h.toQuiet, h.detS, by simp [h.acqOk, hs]⟩

theorem gated_abortAcquire {s u : State} (hu : Quiet s u) (hd : u.samples.detS = s.samples.detS) :
    Gated s (abortAcquire u) :=
  ⟨hu.trans (quiet_abortAcquire u), hd, by simp [abortAcquire]⟩

/-- The return to `POLL` 3 (R129, R145). -/
theorem InAcquire.returned {s u : State} (hp : Polling s) (h : InAcquire s) (hu : Gated s u) :
    Placed (returnToCaller u) := by
  obtain ⟨hph, hbus, hline, hcause⟩ := hp.quiet hu.toQuiet
  simp only [returnToCaller, hu.link, h.link]
  refine placed_of_polling ⟨hph, hbus, hline, hcause⟩
    (.inl ⟨rfl, rfl, rfl, fun _ _ => ?_, fun _ _ => hu.checked, by simp, by simp⟩)
  simpa [hu.pres, hu.detS] using h.rising

/-- The idle write of `ACQ_IDLE_AFTER` follows (R7, D18). -/
theorem InAcquire.idleNext {s u : State} (hp : Polling s) (h : InAcquire s) (hu : Gated s u)
    (hi : s.params.acqIdleAfter = true) : Placed (goto ⟨.acquire, 11, 0⟩ u) := by
  refine placed_of_polling ((hp.quiet hu.toQuiet).goto _) (.inr (.inr
    ⟨rfl, by simp [acquirePosition, hu.params, hi], hu.link.trans h.link, ?_, by simp, fun _ => hu.checked,
      by simp⟩))
  simpa [hu.pres, hu.detS] using h.rising

theorem InAcquire.raised {s u : State} {e : Err} (hp : Polling s) (h : InAcquire s) (hu : Quiet s u)
    (hd : u.samples.detS = s.samples.detS) : Placed (takeRaise e u) := by
  have hg := gated_abortAcquire hu hd
  simp only [takeRaise, hu.seq, h.routine]
  split
  next hi =>
    simp only [idleFollows, Bool.and_eq_true, hu.params] at hi
    exact h.idleNext hp hg hi.1
  next => exact h.returned hp hg

/-- The start of the poll loop stays in the past (R122). -/
theorem started_of_sampling {s u : State} (hu : Sampling s u)
    (hs : ∃ c, s.env.clock = some c ∧ s.samples.acqT0 ≤ c) :
    ∃ c, u.env.clock = some c ∧ u.samples.acqT0 ≤ c := by
  obtain ⟨c, hc, hle⟩ := hs
  obtain ⟨c', hc', hle'⟩ := hu.clock c hc
  exact ⟨c', hc', by rw [hu.acqT0]; exact hle.trans hle'⟩

/-- Before the end of step 10 the sequencer goes on inside `ACQUIRE` with `acq_ok` still 0. -/
theorem InAcquire.move {s u : State} {n k : Nat} (hp : Polling s) (h : InAcquire s) (hu : Quiet s u)
    (hd : u.samples.detS = s.samples.detS) (hok : u.samples.acqOk = false)
    (hq : acquirePosition false n k = true)
    (hst : n = 6 → 1 ≤ k → ∃ c, u.env.clock = some c ∧ u.samples.acqT0 ≤ c) :
    Placed (goto ⟨.acquire, n, k⟩ u) := by
  refine placed_of_polling ((hp.quiet hu).goto _) (.inr (.inr
    ⟨rfl, ?_, hu.link.trans h.link, ?_, fun _ _ => hok, fun _ hc => ?_, hst⟩))
  · have hi : n ≠ 11 := by rintro rfl; cases hq
    simp only [acquirePosition, goto_seq] at hq ⊢
    split at hq <;> simp_all
  · simpa [hu.pres, hd] using h.rising
  · simp [hok] at hc

/-- A step whose piece is sampling goes on inside `ACQUIRE`, or its raise is taken. -/
theorem InAcquire.advance {s t : State} {r : Res} {n k : Nat} (hp : Polling s) (h : InAcquire s)
    (hok : s.samples.acqOk = false) (hr : r.Only notInit (Sampling s))
    (hq : acquirePosition false n k = true)
    (hst : n = 6 → 1 ≤ k → ∃ c, s.env.clock = some c ∧ s.samples.acqT0 ≤ c)
    (ht : outcome r (goto ⟨.acquire, n, k⟩) = .next t) : Placed t := by
  obtain ⟨u, hu, rfl⟩ | ⟨e, u, hu, -, -, rfl⟩ := outcome_eq_next hr ht
  · exact h.move hp hu.toQuiet hu.detS (hu.acqOk.trans hok) hq
      fun hn hk => started_of_sampling hu (hst hn hk)
  · exact h.raised hp hu.toQuiet hu.detS

/-- The integrity gate passes only a checked answer, and keeps `det_s` (R127). -/
theorem only_acquire10 {s : State} (hok : s.samples.acqOk = false) :
    (acquire10 s).Only notInit (Gated s) := by
  unfold acquire10
  dsimp only
  split
  · exact ⟨⟨by constructor <;> simp, rfl, by simp [hok]⟩, rfl, rfl⟩
  next hx => exact ⟨by constructor <;> simp, rfl, fun _ => ⟨rfl, by simpa using hx⟩⟩

/-- The idle write leaves the answer alone. -/
theorem only_acquire11 {s : State} (hc : s.samples.acqOk = true → CardChecked s) :
    (acquire11 s).Only notInit (Gated s) := by
  unfold acquire11 wr
  rw [if_pos (legalIndex_toByte _)]
  rcases xfer_cases (addrByte s.params.chip.command.toByte false) s.params.chip.cmdIdle s with
    ⟨_, hx⟩ | ⟨_, _, hx⟩ | ⟨r0, r1, _, _, hx⟩ <;> rw [hx]
  · trivial
  · exact ⟨⟨(quiet_xferFailed _ _ s).trans (quiet_raised _ _), rfl, hc⟩, rfl, rfl⟩
  · exact ⟨quiet_xferDone _ _ _ _ s, rfl, hc⟩

theorem acquireStep_placed {s t : State} {n k : Nat} (hp : Polling s) (h : InAcquire s)
    (hs : s.seq = ⟨.acquire, n, k⟩) (ht : acquireStep n k s = .next t) : Placed t := by
  have hok : 1 ≤ n → n ≤ 10 → s.samples.acqOk = false := by simpa [hs] using h.notYet
  have hst : n = 6 → 1 ≤ k → ∃ c, s.env.clock = some c ∧ s.samples.acqT0 ≤ c := by
    simpa [hs] using h.started
  have hend : n = 11 → s.samples.acqOk = true → CardChecked s := by simpa [hs] using h.atEnd
  unfold acquireStep at ht
  split at ht
  -- entry and the seven writes (R119 to R121)
  · cases ht; exact h.move hp (by constructor <;> simp) rfl rfl rfl (by simp)
  · exact h.advance hp (hok (by simp) (by simp)) (only_wr' _ _ s) rfl (by simp) ht
  · exact h.advance hp (hok (by simp) (by simp)) (only_wr' _ _ s) rfl (by simp) ht
  · exact h.advance hp (hok (by simp) (by simp)) (only_wr' _ _ s) rfl (by simp) ht
  · exact h.advance hp (hok (by simp) (by simp)) (only_wr' _ _ s) rfl (by simp) ht
  · exact h.advance hp (hok (by simp) (by simp)) (only_wr' _ _ s) rfl (by simp) ht
  · exact h.advance hp (hok (by simp) (by simp)) (only_wr' _ _ s) rfl (by simp) ht
  · exact h.advance hp (hok (by simp) (by simp)) (only_acquire5b s) rfl (by simp) ht
  -- the poll loop (R122)
  · cases ht
    exact h.move hp (quiet_now _ s) rfl (hok (by simp) (by simp)) rfl
      fun _ _ => ⟨_, popNow_clock s.env, le_rfl⟩
  · exact h.advance hp (hok (by simp) (by simp)) (only_acquire6Deadline s) rfl
      (fun _ _ => hst rfl le_rfl) ht
  · obtain ⟨u, hu, rfl⟩ | ⟨e, u, hu, -, -, rfl⟩ := outcome_eq_next (only_acquire6Sample s) ht
    · have huok := hu.acqOk.trans (hok (by simp) (by simp))
      unfold afterSample
      split
      · exact h.move hp hu.toQuiet hu.detS huok rfl (by simp)
      · exact h.move hp hu.toQuiet hu.detS huok rfl
          fun _ _ => started_of_sampling hu (hst rfl (by simp))
    · exact h.raised hp hu.toQuiet hu.detS
  · cases ht
    exact h.move hp (quiet_delay _ s) rfl (hok (by simp) (by simp)) rfl
      fun _ _ => started_of_sampling (sampling_delay _ s) (hst rfl (by simp))
  -- the checks and the five reads (R124 to R126)
  · exact h.advance hp (hok (by simp) (by simp)) (only_acquire7 s) rfl (by simp) ht
  · exact h.advance hp (hok (by simp) (by simp)) (only_acquire8 s) rfl (by simp) ht
  · exact h.advance hp (hok (by simp) (by simp)) (only_rd' _ _ s) rfl (by simp) ht
  · exact h.advance hp (hok (by simp) (by simp)) (only_rd' _ _ s) rfl (by simp) ht
  · exact h.advance hp (hok (by simp) (by simp)) (only_rd' _ _ s) rfl (by simp) ht
  · exact h.advance hp (hok (by simp) (by simp)) (only_rd' _ _ s) rfl (by simp) ht
  · exact h.advance hp (hok (by simp) (by simp)) (only_rd' _ _ s) rfl (by simp) ht
  -- the integrity gate and the idle write (R127; D18)
  · obtain ⟨u, hu, rfl⟩ | ⟨e, u, hu, -, -, rfl⟩ :=
      outcome_eq_next (only_acquire10 (hok (by simp) (by simp))) ht
    · unfold afterGate
      split
      next hi => exact h.idleNext hp hu (by rw [← hu.params]; exact hi)
      next => exact h.returned hp hu
    · exact h.raised hp hu.toQuiet hu.detS
  · obtain ⟨u, hu, rfl⟩ | ⟨e, u, hu, -, -, rfl⟩ := outcome_eq_next (only_acquire11 (hend rfl)) ht
    · exact h.returned hp hu
    · exact h.raised hp hu.toQuiet hu.detS
  · cases ht

/-! ### The steps of `POLL` -/

/-- Two positions of the cycle know nothing of a card: its start and its end (R140, R154). -/
theorem placed_at_poll {s : State} {n : Nat} (hp : Polling s) (hs : s.seq = ⟨.poll, n, 0⟩)
    (hl : s.link = none) (hn : n = 1 ∨ n = 2 ∨ n = 8) : Placed s := by
  refine placed_of_polling hp (.inl ⟨by simp [hs], ?_, hl, ?_, ?_, ?_, ?_⟩) <;>
    rcases hn with rfl | rfl | rfl <;> simp [hs, pollPosition]

theorem pollStep_placed {s t : State} {n k : Nat} (hp : Polling s) (h : InPoll s)
    (hs : s.seq = ⟨.poll, n, k⟩) (ht : pollStep n k s = .next t) : Placed t := by
  obtain ⟨-, -, hlink, hrise, hacq, hchk, hsmp⟩ := h
  have ⟨hph, hbus, hline, hcause⟩ := hp
  simp only [hs] at hrise hacq hchk hsmp
  unfold pollStep at ht
  split at ht <;> cases ht
  · exact placed_of_polling ⟨hph, hbus, hline, hcause⟩ (.inr (.inl ⟨rfl, rfl, rfl⟩))
  · unfold pollDispatch
    split
    · exact placed_at_poll (hp.goto _) rfl hlink (by simp)
    · exact placed_at_poll ⟨hph, hbus, hline, hcause⟩ rfl hlink (by simp)
    · exact placed_at_poll (hp.goto _) rfl hlink (by simp)
    · exact placed_at_poll (hp.goto _) rfl hlink (by simp)
    next hd hpr =>
      exact placed_of_polling (hp.goto _)
        (.inl ⟨rfl, rfl, hlink, fun _ _ => ⟨hpr, hd⟩, by simp, by simp, by simp⟩)
  · exact placed_of_polling ⟨hph, hbus, hline, hcause⟩
      (.inr (.inr ⟨rfl, rfl, rfl, hrise (by simp) (by simp), by simp [callSub], by simp [callSub],
        by simp [callSub]⟩))
  · have hr := hrise (by simp) (by simp)
    split
    next hok =>
      exact placed_of_polling (hp.goto _)
        (.inl ⟨rfl, rfl, hlink, fun _ _ => hr, by simp, fun _ _ => hacq rfl rfl hok, by simp⟩)
    next =>
      exact placed_of_polling (hp.goto _)
        (.inl ⟨rfl, rfl, hlink, fun _ _ => hr, by simp, by simp, by simp⟩)
  · have hstamp : stamp s.params (nextNow s.env) ≤ nextNow s.env := by
      unfold stamp
      split
      · exact le_rfl
      · exact Nat.mod_le _ _
    exact placed_of_polling ((hp.quiet (quiet_now _ s)).goto _)
      (.inl ⟨rfl, rfl, hlink, fun _ _ => hrise (by simp) (by simp), by simp,
        fun _ _ => hchk (by simp) (by simp), by simpa [poll4_eq, clockFloor] using hstamp⟩)
  · have hr := hrise (by simp) (by simp)
    split
    · exact placed_of_polling (hp.goto _)
        (.inl ⟨rfl, rfl, hlink, fun _ _ => hr, by simp, fun _ _ => hchk (by simp) (by simp),
          fun _ _ => hsmp (by simp) (by simp)⟩)
    · exact placed_of_polling (hp.goto _)
        (.inl ⟨rfl, rfl, hlink, fun _ _ => hr, by simp, by simp, by simp⟩)
  · exact placed_of_polling ⟨hph, hbus, hline, hcause⟩
      (.inl ⟨rfl, rfl, hlink, fun _ _ => hrise (by simp) (by simp), by simp, by simp, by simp⟩)
  · exact placed_at_poll ⟨hph, hbus, hline, hcause⟩ rfl hlink (by simp)
  · exact placed_at_poll ((hp.quiet (quiet_delay _ s)).goto _) rfl hlink (by simp)

/-! ### The invariant -/

theorem step_placed {s t : State} (h : Inv s) (ht : step s = .next t) : Placed t := by
  have hp := phase_of_step ht
  have hs := sequencerStep_of_step h.noOps ht
  unfold sequencerStep at hs
  split at hs
  next hr =>
    obtain ⟨hb, hi⟩ := h.placed.bringup_of_init hp hr
    exact initStep_placed hb hi (by rw [← hr]) hs
  next hr =>
    obtain ⟨hq, hi⟩ := h.placed.inPoll hp hr
    exact pollStep_placed hq hi (by rw [← hr]) hs
  next hr =>
    obtain ⟨hq, hi⟩ := h.placed.inDetect hp hr
    exact detectStep_placed hq hi hs
  next hr =>
    obtain ⟨hq, hi⟩ := h.placed.inAcquire hp hr
    exact acquireStep_placed hq hi (by rw [← hr]) hs
  · cases hs

/-- With the same records on the event port and the same stored report, R27 (c) is the same. -/
theorem LastReportStored.of_eq {s t : State} (h : LastReportStored s)
    (hr : reports t.trace = reports s.trace) (hu : t.pres.lastUid = s.pres.lastUid)
    (ht : t.pres.lastTs = s.pres.lastTs) : LastReportStored t := by
  unfold LastReportStored
  rw [hr, hu, ht]
  exact h

/-- An emission that stores what it emits meets R27 (c), whatever was stored before. -/
theorem LastReportStored.of_emitted {t : State} {rs : List (Text × Text × Time)} {label : Text} {u : Uid}
    {ts : Time} (hr : reports t.trace = rs ++ [(uidString u, label, ts)]) (hu : t.pres.lastUid = some u)
    (ht : t.pres.lastTs = ts) : LastReportStored t := by
  simp [LastReportStored, hr, hu, ht]

/-- Settles O56: of the effects of a step only `POLL` 6 reports, and the invariant says that a checked answer
stands there. -/
theorem reportsComeFromCheckedCards : Obligations.ReportsComeFromCheckedCards := by
  intro s t h hst
  cases stepEffect_of_step h.noOps hst with
  | kept hk => exact .inl ⟨hk.reports, by rw [hk.pres], by rw [hk.pres]⟩
  | line l q hr hn => exact .inl ⟨by simp, rfl, rfl⟩
  | opened q hs => exact .inl ⟨by simp, rfl, rfl⟩
  | up hs => exact .inl ⟨rfl, rfl, rfl⟩
  | halted e hu hr h0 he => exact .inl ⟨hu.reports, by simp [halt, hu.pres], by simp [halt, hu.pres]⟩
  | fell q hs hp hd => exact .inl ⟨rfl, rfl, rfl⟩
  | emitted q hs =>
    obtain ⟨-, hi⟩ := h.placed.inPoll (phase_of_step hst) (by simp [hs])
    exact .inr ⟨hi.checked (by simp [hs]) (by simp [hs]), by simp [poll6], rfl, rfl⟩
  | rose q hs => exact .inl ⟨rfl, rfl, rfl⟩

theorem step_reported {s t : State} (h : Inv s) (ht : step s = .next t) : LastReportStored t := by
  rcases reportsComeFromCheckedCards s t h ht with ⟨hr, hu, hts⟩ | ⟨-, hr, hu, hts⟩
  · exact h.reported.of_eq hr hu hts
  · exact .of_emitted hr hu hts

/-- No step places an operation, and the last report lies in the past of the clock. -/
theorem step_noOps_past {s t : State} (h : Inv s) (ht : step s = .next t) :
    t.ops = [] ∧ t.pres.lastTs ≤ clockFloor t.env := by
  cases stepEffect_of_step h.noOps ht with
  | kept hk => exact ⟨hk.ops.trans h.noOps, by rw [hk.pres]; exact h.past.trans (ClockKept.floor hk.clock)⟩
  | line l q hr hn => exact ⟨h.noOps, h.past⟩
  | opened q hs => exact ⟨h.noOps, h.past⟩
  | up hs => exact ⟨h.noOps, h.past⟩
  | halted e hu hr h0 he =>
    refine ⟨hu.ops.trans h.noOps, ?_⟩
    simpa [halt, hu.pres] using h.past.trans (ClockKept.floor hu.clock)
  | fell q hs hp hd => exact ⟨h.noOps, h.past⟩
  | emitted q hs =>
    obtain ⟨-, hi⟩ := h.placed.inPoll (phase_of_step ht) (by simp [hs])
    exact ⟨h.noOps, hi.sampled (by simp [hs]) (by simp [hs])⟩
  | rose q hs => exact ⟨h.noOps, h.past⟩

/-- Settles O52: each part of the invariant is kept by every step. -/
theorem stepKeepsInvariant : Obligations.StepKeepsInvariant := by
  intro s t h ht
  obtain ⟨hops, hpast⟩ := step_noOps_past h ht
  exact ⟨hops, step_placed h ht, step_reported h ht, hpast⟩

/-- Settles O51: reset stands at `INIT` 1a with nothing placed, seen or reported (R191). -/
theorem resetMeetsInvariant : Obligations.ResetMeetsInvariant where
  noOps := rfl
  placed := placed_of_bringup rfl ⟨rfl, rfl, rfl, by decide, by decide, ⟨rfl, rfl⟩, rfl⟩
  reported := ⟨rfl, rfl⟩
  past := le_rfl

/-- Settles O54: of the effects of a step only `INIT` 7 and a halt change the mode, and the invariant says that
`INIT` runs in `BRINGUP`. -/
theorem phaseTransitions : Obligations.PhaseTransitions := by
  intro s t h hst hne
  have hp := phase_of_step hst
  cases stepEffect_of_step h.noOps hst with
  | kept hk => exact absurd hk.phase hne
  | line l q hr hn => exact absurd rfl hne
  | opened q hs => exact absurd rfl hne
  | up hs => exact ⟨(h.placed.bringup_of_init hp (by simp [hs])).1, .inl ⟨rfl, hs⟩⟩
  | halted e hu hr h0 he =>
    exact ⟨(h.placed.bringup_of_init hp hr).1, .inr ⟨rfl, h0, he.symm⟩⟩
  | fell q hs hpr hd => exact absurd rfl hne
  | emitted q hs => exact absurd rfl hne
  | rose q hs => exact absurd rfl hne

/-- Settles O55: of the effects of a step only `POLL` 2 and 7 change `presence`, and the invariant says that
step 7 is on a rising edge. -/
theorem presenceTransitions : Obligations.PresenceTransitions := by
  intro s t h hst hne
  cases stepEffect_of_step h.noOps hst with
  | kept hk => exact absurd (by rw [hk.pres]) hne
  | line l q hr hn => exact absurd rfl hne
  | opened q hs => exact absurd rfl hne
  | up hs => exact absurd rfl hne
  | halted e hu hr h0 he => exact absurd (by simp [halt, hu.pres]) hne
  | fell q hs hp hd => exact .inr ⟨hp, hd, hs⟩
  | emitted q hs => exact absurd rfl hne
  | rose q hs =>
    obtain ⟨-, hi⟩ := h.placed.inPoll (phase_of_step hst) (by simp [hs])
    obtain ⟨hp, hd⟩ := hi.rising (by simp [hs]) (by simp [hs])
    exact .inl ⟨hp, hd, hs⟩

end Sys2Proof.Safety
end

section
/-! PROOFS. Single operations of 10_state.md: the register that a read fills (R14, R126) and the event port
(R23); and the retry of a failed bring-up (R7, D24). -/

namespace Sys2Proof.Machine

open Sys2Proof.Safety

/-! ### Reads and the event port -/

/-- An answered read is one transaction, and its second byte goes to the register of its step (R83). -/
theorem rd_of_exec {s t : State} {a d r0 r1 : Byte} (hn : nextAnswer s.env = .ok r0 r1)
    (h : exec (.rd a d) s = .next t) :
    t = setDest (readDest s.seq) r1 (xferDone (addrByte a true) d r0 r1 s) := by
  by_cases hp : s.phase = .halted
  · cases (perform_halted _ hp).symm.trans h
  replace h : outcome (rdSending d a (readDest s.seq) s) id = .next t :=
    (perform_running _ hp).symm.trans h
  cases ha : legalIndex a with
  | false => simp [rdSending, ha] at h
  | true =>
    cases hb : s.busOpen with
    | false => simp [rdSending, ha, xfer, hb] at h
    | true => rw [rdSending_ok ha hb hn] at h; cases h; rfl

/-- At a position outside the column "written by" a read names no register (R14; log 14). -/
theorem readDest_unlisted {p : Pos} (h : p ∉ [(⟨.init, 3, 1⟩ : Pos), ⟨.init, 5, 0⟩, ⟨.detect, 7, 0⟩,
    ⟨.acquire, 6, 2⟩, ⟨.acquire, 7, 0⟩, ⟨.acquire, 8, 0⟩, ⟨.acquire, 9, 0⟩, ⟨.acquire, 9, 1⟩,
    ⟨.acquire, 9, 2⟩, ⟨.acquire, 9, 3⟩, ⟨.acquire, 9, 4⟩]) : readDest p = .none := by
  obtain ⟨r, n, k⟩ := p
  simp only [readDest]
  split <;> simp_all

/-- Settles O13: at each listed position the register is the one that `readDest` names there. -/
theorem readFillsTheRegisterOfItsStep : Obligations.ReadFillsTheRegisterOfItsStep := by
  intro s t a d r0 r1 hn h
  obtain rfl := rd_of_exec hn h
  refine ⟨fun hs => ?_, fun hs => ?_, fun hs => ?_, fun hs => ?_, fun hs => ?_, fun hs => ?_,
    fun hs => ?_, fun hs => ?_, fun hs => ?_, fun hs => ?_, fun hs => ?_⟩
  · rw [hs]; exact ⟨rfl, rfl⟩
  · rw [hs]; exact ⟨rfl, rfl⟩
  · rcases hs with hs | hs <;> rw [hs] <;> exact ⟨rfl, rfl⟩
  · rw [hs]; exact ⟨rfl, rfl⟩
  · rw [hs]; exact ⟨rfl, rfl⟩
  · rw [hs]; exact ⟨rfl, rfl⟩
  · rw [hs]; exact ⟨rfl, rfl⟩
  · rw [hs]; exact ⟨rfl, rfl⟩
  · rw [hs]; exact ⟨rfl, rfl⟩
  · rw [hs]; exact ⟨rfl, rfl⟩
  · rw [readDest_unlisted hs]; exact ⟨rfl, rfl⟩

/-- Settles O23: outside `HALTED` the operation is performed, and it is one trace item. -/
theorem emitResult : Obligations.EmitResult := fun _ hp =>
  perform_running (fun s => .ok (emit s)) hp

/-! ### The frame of a bring-up attempt -/

theorem only_runSteps {K : Err → Bool} {fs : List (State → Res)}
    (hf : ∀ f ∈ fs, ∀ s, (f s).Only K (Sampling s)) (s : State) : (runSteps fs s).Only K (Sampling s) := by
  induction fs generalizing s with
  | nil => exact Sampling.refl s
  | cons f fs ih => exact only_andThen (hf f (by simp) s) (ih fun g hg => hf g (by simp [hg]))

theorem only_configWriteAll (ws : List (RegIx × Byte)) (s : State) :
    (configWriteAll ws s).Only fatalInInit (Sampling s) := by
  induction ws generalizing s with
  | nil => exact Sampling.refl s
  | cons w ws ih => exact only_andThen (only_initWr _ _ s) ih

/-- The steps of `INIT` between the opening of the bus and its end (R93 to R98). -/
def initBusSteps : List (State → Res) :=
  [init3a, init3b, init3c, init4a, init4b, init5a, init5b, init6a, init6b]

/-- `INIT` steps 1 and 2 together (R91, R92). -/
def initOpened (s : State) : State :=
  busOpen (delay tRstSettle (rstLine true (delay tRstLow (rstLine false s))))

theorem runSteps_initSteps (s : State) :
    runSteps initSteps s = (runSteps initBusSteps (initOpened s)).andThen init7 := by
  have h : runSteps initSteps s = runSteps (initBusSteps ++ [init7]) (initOpened s) := rfl
  rw [h, runSteps_append]
  cases runSteps initBusSteps (initOpened s) <;> rfl

theorem only_initBusSteps (s : State) : (runSteps initBusSteps s).Only fatalInInit (Sampling s) := by
  refine only_runSteps (fun f hf s => ?_) s
  simp only [initBusSteps, List.mem_cons, List.not_mem_nil, or_false] at hf
  rcases hf with rfl | rfl | rfl | rfl | rfl | rfl | rfl | rfl | rfl
  · exact only_initWr _ _ s
  · exact only_initRd _ _ s
  · exact only_init3c s
  · exact only_initWr _ _ s
  · exact sampling_delay _ s
  · exact only_initRd _ _ s
  · exact only_init5b s
  · exact only_configWriteAll _ s
  · exact only_init6b s

/-- `t` stands where `s` does: mode, return link, attempts left and operations placed are the same. -/
structure SameContext (s t : State) : Prop where
  phase : t.phase = s.phase
  link : t.link = s.link
  retriesLeft : t.retriesLeft = s.retriesLeft
  ops : t.ops = s.ops

theorem SameContext.refl (s : State) : SameContext s s := ⟨rfl, rfl, rfl, rfl⟩

theorem SameContext.trans {s t u : State} (h : SameContext s t) (k : SameContext t u) : SameContext s u :=
  ⟨k.phase.trans h.phase, k.link.trans h.link, k.retriesLeft.trans h.retriesLeft, k.ops.trans h.ops⟩

theorem Quiet.sameContext {s t : State} (h : Quiet s t) : SameContext s t :=
  ⟨h.phase, h.link, h.retriesLeft, h.ops⟩

/-- Up to step 7 an attempt keeps its context, and it raises only the three errors of `INIT` (R168). -/
theorem only_initAttempt (s : State) :
    (runSteps initBusSteps (initOpened s)).Only fatalInInit (SameContext s) :=
  (only_initBusSteps (initOpened s)).imp fun _ hu =>
    have ⟨hp, hl, hr, ho⟩ := hu.toQuiet.sameContext
    ⟨hp, hl, hr, ho⟩

/-- An attempt raises at one of its steps on the bus. -/
theorem initBusSteps_of_raised {s t : State} {e : Err} (h : runSteps initSteps s = .raised e t) :
    runSteps initBusSteps (initOpened s) = .raised e t := by
  rw [runSteps_initSteps] at h
  cases hr : runSteps initBusSteps (initOpened s) with
  | ok u => rw [hr] at h; cases h
  | raised e' u => rw [hr] at h; exact h
  | refused q => rw [hr] at h; cases h

theorem initAttempt_raised {s t : State} {e : Err} (h : runSteps initSteps s = .raised e t) :
    SameContext s t ∧ fatalInInit e = true := by
  have ho := only_initAttempt s
  rw [initBusSteps_of_raised h] at ho
  exact ⟨ho.1, ho.2.1⟩

/-- In `BRINGUP` the operation `INIT` is the attempts that are left. -/
theorem exec_init {s : State} (hp : s.phase = .bringup) :
    exec .init s = outcome (initAttempts s.retriesLeft s) id := by
  simp [exec, execInit, perform, initRun, hp]

/-- Settles O33: a raise with attempts left is `restartInit`, which is written out in the statement. -/
theorem failedInitIsRetried : Obligations.FailedInitIsRetried := by
  intro s t e n hp hn h
  obtain ⟨hc, -⟩ := initAttempt_raised h
  have ht : abortInit e t = restartInit t := by simp [abortInit, hc.retriesLeft, hn]
  have hr : restartInit t = { t with
      retriesLeft := n
      seq := ⟨.init, 1, 0⟩
      link := none
      env := { t.env with clock := t.env.clock.map (· + t.params.retryDelay) }
      trace := t.trace ++ [.delayed t.params.retryDelay] } := by
    simp [restartInit, delay, log, hc.retriesLeft, hn]
  have hl : (restartInit t).retriesLeft = n := by rw [hr]
  rw [← hr, exec_init (s := restartInit t) (hc.phase.trans hp), hl, exec_init hp, hn, initAttempts, h]
  simp only [ht]

end Sys2Proof.Machine
end

section
/-! PROOFS. The routines are the runs of their steps (R12, D7; log 20): the pieces of a step list do not look at
the sequencer position, so the machine's run carries the position along while the routine as one operation
stays where it is. -/

namespace Sys2Proof.Machine

open Sys2Proof.Safety

/-! ### Runs of the machine -/

/-- Some number of steps from `s` ends with `o`. -/
def Runs (s : State) (o : Host.Outcome State Fault Refusal) : Prop := ∃ k, Host.Core.run core k s = o

theorem run_succ {M : Host.Core} {s u : M.State} (h : M.step s = .next u) (k : Nat) :
    M.run (k + 1) s = M.run k u := by simp only [Host.Core.run, h]

theorem run_refused {M : Host.Core} {s : M.State} {q : M.Refusal} (h : M.step s = .refused q) :
    M.run 1 s = .refused q := by simp only [Host.Core.run, h]

theorem run_add {M : Host.Core} {s u : M.State} {k : Nat} (h : M.run k s = .next u) (j : Nat) :
    M.run (k + j) s = M.run j u := by
  induction k generalizing s with
  | zero => cases h; rw [Nat.zero_add]
  | succ k ih =>
    rw [Nat.succ_add]
    simp only [Host.Core.run] at h ⊢
    split at h
    · exact ih h
    · cases h
    · cases h

theorem Runs.refl (s : State) : Runs s (.next s) := ⟨0, rfl⟩

theorem Runs.step {s u : State} {o : Host.Outcome State Fault Refusal} (h : step s = .next u)
    (hu : Runs u o) : Runs s o :=
  have ⟨k, hk⟩ := hu
  ⟨k + 1, (run_succ (M := core) h k).trans hk⟩

/-- A step that is refused ends the run. -/
theorem Runs.refused {s : State} {q : Refusal} (h : Machine.step s = .refused q) :
    Runs s (.refused q) := ⟨1, run_refused (M := core) h⟩

theorem Runs.trans {s u : State} {o : Host.Outcome State Fault Refusal} (h : Runs s (.next u))
    (hu : Runs u o) : Runs s o :=
  have ⟨_, hk⟩ := h
  have ⟨j, hj⟩ := hu
  ⟨_, (run_add (M := core) hk j).trans hj⟩

/-! ### Pieces that do not look at the sequencer -/

/-- The data of `s` in the context of `c`: its mode, position, return link, attempts left and queue. -/
def within (c s : State) : State :=
  { s with phase := c.phase, seq := c.seq, link := c.link, retriesLeft := c.retriesLeft, ops := c.ops }

/-- In a context that it already has but for the position, a state is only moved. -/
theorem within_of_sameContext {s t : State} (h : SameContext s t) (p : Pos) :
    within (goto p s) t = goto p t := by
  simp [within, goto, ← h.phase, ← h.link, ← h.retriesLeft, ← h.ops]

theorem returnToCaller_within (p : Pos) (c s : State) :
    returnToCaller (within (goto p c) s) = within (returnToCaller c) s := by
  cases hl : c.link <;> simp [returnToCaller, within, hl]

def Res.map (g : State → State) : Res → Res
  | .ok s => .ok (g s)
  | .raised e s => .raised e (g s)
  | .refused q => .refused q

/-- A piece does the same in every context, and keeps it. -/
def Blind (f : State → Res) : Prop := ∀ c s, f (within c s) = (f s).map (within c)

theorem blind_andThen {f g : State → Res} (hf : Blind f) (hg : Blind g) :
    Blind fun s => (f s).andThen g := by
  intro c s
  simp only [hf c s]
  cases f s with
  | ok t => exact hg c t
  | raised e t => rfl
  | refused q => rfl

theorem blind_ite {p : State → Prop} [∀ s, Decidable (p s)] (hp : ∀ c s, p (within c s) ↔ p s)
    {f g : State → Res} (hf : Blind f) (hg : Blind g) : Blind fun s => if p s then f s else g s := by
  intro c s
  by_cases h : p s
  · simp only [if_pos h, if_pos ((hp c s).2 h), hf c s]
  · simp only [if_neg h, if_neg (mt (hp c s).1 h), hg c s]

theorem blind_ok : Blind .ok := fun _ _ => rfl

theorem blind_xfer (b0 b1 : Byte) : Blind (xfer b0 b1) := by
  refine blind_ite (fun _ _ => Iff.rfl) (fun c s => ?_) fun _ _ => rfl
  show (match nextAnswer s.env with | .fail => _ | .ok r0 r1 => _) = _
  cases nextAnswer s.env <;> rfl

theorem blind_wr (a v : Byte) : Blind (wr a v) :=
  blind_ite (fun _ _ => Iff.rfl) (blind_xfer _ v) fun _ _ => rfl

theorem blind_setDest (dst : Dest) : Blind fun s => .ok (setDest dst s.bus.rx1 s) := by
  intro c s
  cases dst <;> rfl

theorem blind_rdSending (d a : Byte) (dst : Dest) : Blind (rdSending d a dst) :=
  blind_ite (fun _ _ => Iff.rfl) (blind_andThen (blind_xfer _ d) (blind_setDest dst)) fun _ _ => rfl

theorem blind_rd (a : RegIx) (dst : Dest) : Blind (rd a dst) := fun c s =>
  blind_rdSending s.params.dummy a.toByte dst c s

theorem blind_setBits (a m : Byte) : Blind (setBits a m) := fun c s =>
  blind_andThen (g := fun s => wr a (s.samples.txcS ||| m) s) (blind_rdSending s.params.dummy a .txcS)
    (fun c s => blind_wr a (s.samples.txcS ||| m) c s) c s

theorem blind_init3c : Blind init3c :=
  blind_ite (fun _ _ => Iff.rfl) (fun _ _ => rfl) blind_ok

theorem blind_init5b : Blind init5b :=
  blind_ite (fun _ _ => Iff.rfl) (fun _ _ => rfl) blind_ok

theorem blind_init6b : Blind init6b := fun c s => blind_setBits _ _ c s

theorem blind_acquire5b : Blind acquire5b := fun c s =>
  blind_andThen (blind_wr _ _) (fun _ _ => rfl) c s

theorem blind_acquire6Deadline : Blind acquire6Deadline :=
  blind_ite (fun _ _ => Iff.rfl) (fun _ _ => rfl) fun _ _ => rfl

theorem blind_irqGate : Blind irqGate :=
  blind_ite (fun _ _ => Iff.rfl) (fun _ _ => rfl)
    (blind_ite (fun _ _ => Iff.rfl) (fun _ _ => rfl) blind_ok)

theorem blind_acquire6Sample : Blind acquire6Sample := fun c s =>
  blind_andThen (blind_rd s.params.chip.comIrq .irqS) blind_irqGate c s

theorem blind_errorGate : Blind errorGate :=
  blind_ite (fun _ _ => Iff.rfl) (fun _ _ => rfl) blind_ok

theorem blind_acquire7 : Blind acquire7 := fun c s =>
  blind_andThen (blind_rd s.params.chip.error .errS) blind_errorGate c { s with acqState := .validating }

theorem blind_levelGate : Blind levelGate :=
  blind_ite (fun _ _ => Iff.rfl) (fun _ _ => rfl) blind_ok

theorem blind_acquire8 : Blind acquire8 := fun c s =>
  blind_andThen (blind_rd s.params.chip.fifoLevel .lvlS) blind_levelGate c s

theorem blind_acquire10 : Blind acquire10 :=
  blind_ite (fun _ _ => Iff.rfl) (fun _ _ => rfl) fun _ _ => rfl

/-! ### A step list as a run -/

/-- From `m` the machine runs through the steps that make up `r`: to `k` of the state where `r` goes on, or to
the taking of its raise in the routine `rt`, or to its refusal. The run is in the context of `c`. -/
def Carries (c : State) (rt : Routine) (m : State) (k : State → State) (r : Res) : Prop :=
  match r with
  | .ok t => Runs m (.next (k t))
  | .raised e t => ∃ p, p.routine = rt ∧ Runs m (.next (takeRaise e (within (goto p c) t)))
  | .refused q => Runs m (.refused q)

/-- A context in which the sequencer takes its own steps. -/
structure Sequencing (c : State) : Prop where
  running : c.phase ≠ .halted
  noOps : c.ops = []

theorem Sequencing.step {c : State} (hc : Sequencing c) (p : Pos) (s : State) :
    step (within (goto p c) s) = sequencerStep (within (goto p c) s) :=
  step_eq_sequencerStep hc.running hc.noOps

/-- One step that always goes on. -/
theorem Sequencing.next {c u : State} {p : Pos} {s : State} {o : Host.Outcome State Fault Refusal}
    (hc : Sequencing c) (h : sequencerStep (within (goto p c) s) = .next u) (hu : Runs u o) :
    Runs (within (goto p c) s) o := Runs.step ((hc.step p s).trans h) hu

/-- One step that is a piece and goes on by `k'`. -/
theorem carries_piece {c : State} (hc : Sequencing c) {rt : Routine} {p : Pos} (hp : p.routine = rt)
    {f : State → Res} {k k' : State → State} (hf : Blind f) {s : State}
    (hs : sequencerStep (within (goto p c) s) = outcome (f (within (goto p c) s)) k')
    (hk : ∀ t, k' (within (goto p c) t) = k t) : Carries c rt (within (goto p c) s) k (f s) := by
  have h := (hc.step p s).trans hs
  rw [hf] at h
  cases hr : f s with
  | ok t => rw [hr, Res.map, outcome_ok, hk] at h; exact .step h (.refl _)
  | raised e t => rw [hr] at h; exact ⟨p, hp, .step h (.refl _)⟩
  | refused q => rw [hr] at h; exact .refused h

theorem Carries.andThen {c m : State} {rt : Routine} {k k' : State → State} {r : Res}
    {g : State → Res} (h : Carries c rt m k r) (hg : ∀ t, r = .ok t → Carries c rt (k t) k' (g t)) :
    Carries c rt m k' (r.andThen g) := by
  cases r with
  | ok t =>
    have ht := hg t rfl
    unfold Carries at ht ⊢
    simp only [Res.andThen_ok]
    split at ht
    · exact h.trans ht
    · obtain ⟨p, hp, hrun⟩ := ht
      exact ⟨p, hp, h.trans hrun⟩
    · exact h.trans ht
  | raised e t => exact h
  | refused q => exact h

theorem carries_ok (c : State) (rt : Routine) (k : State → State) (s : State) :
    Carries c rt (k s) k (.ok s) := Runs.refl _

/-- The first step of a list from position `p`, and the rest of the list from the next position `q`. -/
theorem carries_cons {c : State} (hc : Sequencing c) {rt : Routine} {p : Pos} (q : Pos)
    (hp : p.routine = rt) {f : State → Res} {fs : List (State → Res)} {k : State → State} (hf : Blind f)
    (hs : ∀ s, sequencerStep (within (goto p c) s) = outcome (f (within (goto p c) s)) (goto q))
    (h : ∀ s, Carries c rt (within (goto q c) s) k (runSteps fs s)) (s : State) :
    Carries c rt (within (goto p c) s) k (runSteps (f :: fs) s) :=
  (carries_piece hc hp hf (hs s) fun _ => rfl).andThen fun t _ => h t

/-! ### `DETECT` (R118) -/

theorem carries_detectSteps {c : State} (hc : Sequencing c) : ∀ s,
    Carries c .detect (within (goto ⟨.detect, 1, 0⟩ c) s) (within (returnToCaller c))
      (runSteps detectSteps s) := by
  refine carries_cons hc ⟨.detect, 2, 0⟩ rfl (fun c s => blind_wr _ _ c s) (fun _ => rfl) ?_
  refine carries_cons hc ⟨.detect, 3, 0⟩ rfl (fun c s => blind_wr _ _ c s) (fun _ => rfl) ?_
  refine carries_cons hc ⟨.detect, 4, 0⟩ rfl (fun c s => blind_wr _ _ c s) (fun _ => rfl) ?_
  refine carries_cons hc ⟨.detect, 5, 0⟩ rfl (fun c s => blind_wr _ _ c s) (fun _ => rfl) ?_
  refine carries_cons hc ⟨.detect, 6, 0⟩ rfl (fun c s => blind_wr _ _ c s) (fun _ => rfl) ?_
  refine carries_cons hc ⟨.detect, 7, 0⟩ rfl (fun _ _ => rfl) (fun _ => rfl) ?_
  refine carries_cons hc ⟨.detect, 8, 0⟩ rfl (fun c s => blind_rd _ _ c s) (fun _ => rfl) ?_
  refine carries_cons hc ⟨.detect, 9, 0⟩ rfl (fun c s => blind_wr _ _ c s) (fun _ => rfl) fun s => ?_
  exact (carries_piece hc (f := detect9) (k := within (returnToCaller c)) rfl (fun _ _ => rfl) rfl
    (returnToCaller_within _ c)).andThen fun t _ => carries_ok c _ _ t

/-- `DETECT` in its steps, from its first one to the return (R12). -/
theorem runs_detect {c s t : State} (hc : Sequencing c) (hb : s.busOpen = true)
    (h : detectRun s = .ok t) :
    Runs (within (goto ⟨.detect, 1, 0⟩ c) s) (.next (within (returnToCaller c) t)) := by
  have hd := does_detectSteps hb
  have hrun := carries_detectSteps hc s
  unfold detectRun at h
  cases hr : runSteps detectSteps s with
  | ok u => rw [hr] at h hrun; cases h; exact hrun
  | raised e u =>
    rw [hr] at h hrun hd
    cases h
    obtain ⟨p, hp, hrun⟩ := hrun
    have he : takeRaise e (within (goto p c) u) = returnToCaller (within (goto p c) (abortDetect u)) := by
      simp [takeRaise, within, hp, hd.2.1, abortDetect]
    rwa [he, returnToCaller_within] at hrun
  | refused q => rw [hr] at h; cases h

/-- Settles O59: the run of the steps returns to the link, and `DETECT` as one operation keeps the context. -/
theorem stepsMakeDetect : Obligations.StepsMakeDetect := by
  intro s t back hp hs hl hops hb h
  obtain ⟨hrun, hq⟩ := detectRun_of_exec h
  have hr := runs_detect ⟨hp, hops⟩ hb hrun
  have he : within (returnToCaller s) t = { t with seq := back, link := none } := by
    simp [within, returnToCaller, hl, hq.phase, hq.ops, hq.retriesLeft]
  rwa [he, ← hs] at hr

end Sys2Proof.Machine
end

section
/-! PROOFS. `INIT`, `ACQUIRE` and `POLL` as the runs of their steps (R90, R129, R140). -/

namespace Sys2Proof.Machine

open Sys2Proof.Safety

/-! ### `INIT` (R90) -/

/-- The configuration writes are the steps (INIT, 6, k) for `k` below their number (R97). -/
theorem initStep_configWrite {s : State} {k : Nat} {w : RegIx × Byte}
    (h : s.params.chip.configWrites[k]? = some w) :
    initStep 6 k s = outcome (configWrite w s) (goto ⟨.init, 6, k + 1⟩) := by simp [initStep, h]

/-- Step 6b follows the last of them (R98). -/
theorem initStep_antenna {s : State} {k : Nat} (h : k = s.params.chip.configWrites.length) :
    initStep 6 k s = outcome (init6b s) (goto ⟨.init, 7, 0⟩) := by simp [initStep, h]

theorem carries_configWriteAll {c : State} (hc : Sequencing c) (ws : List (RegIx × Byte)) (k : Nat)
    (s : State) (h : s.params.chip.configWrites.drop k = ws) :
    Carries c .init (within (goto ⟨.init, 6, k⟩ c) s)
      (within (goto ⟨.init, 6, k + ws.length⟩ c)) (configWriteAll ws s) := by
  induction ws generalizing k s with
  | nil => exact carries_ok c _ _ s
  | cons w ws ih =>
    have hw : s.params.chip.configWrites[k]? = some w := by
      have h0 := congrArg (·[0]?) h
      simpa [List.getElem?_drop] using h0
    have hd : s.params.chip.configWrites.drop (k + 1) = ws := by
      rw [← List.drop_drop, h]; rfl
    have hone := carries_piece hc (p := ⟨.init, 6, k⟩) (k := within (goto ⟨.init, 6, k + 1⟩ c)) rfl
      (blind_wr w.1.toByte w.2) (s := s) (initStep_configWrite hw) fun _ => rfl
    refine hone.andThen fun t ht => ?_
    have hq := only_wr w.1.toByte w.2 s
    rw [ht] at hq
    have hlen : k + (w :: ws).length = k + 1 + ws.length := by simp only [List.length_cons]; omega
    rw [hlen]
    exact ih (k + 1) t (by rw [hq.params, hd])

/-- Steps 6a and 6b (R97, R98). -/
theorem carries_configuration {c : State} (hc : Sequencing c) (s : State) :
    Carries c .init (within (goto ⟨.init, 6, 0⟩ c) s) (within (goto ⟨.init, 7, 0⟩ c))
      (runSteps [init6a, init6b] s) := by
  refine (carries_configWriteAll hc _ 0 s rfl).andThen fun t ht => ?_
  have hq := only_configWriteAll (s.params.chip.configWrites.drop 0) s
  rw [ht] at hq
  have hlast : 0 + (s.params.chip.configWrites.drop 0).length = t.params.chip.configWrites.length := by
    simp [hq.params]
  have hstep :
      sequencerStep (within (goto ⟨.init, 6, 0 + (s.params.chip.configWrites.drop 0).length⟩ c) t) =
        outcome (init6b (within _ t)) (goto ⟨.init, 7, 0⟩) := initStep_antenna hlast
  exact (carries_piece hc (k := within (goto ⟨.init, 7, 0⟩ c)) rfl blind_init6b hstep fun _ => rfl).andThen
    fun u _ => carries_ok c _ _ u

/-- An attempt up to step 7. -/
theorem carries_initAttempt {c : State} (hc : Sequencing c) (s : State) :
    Carries c .init (within (goto ⟨.init, 1, 0⟩ c) s) (within (goto ⟨.init, 7, 0⟩ c))
      (runSteps initBusSteps (initOpened s)) := by
  show Carries c .init _ _ (runSteps ([init1a, init1b, init1c, init1d, init2] ++ initBusSteps) s)
  revert s
  refine carries_cons hc ⟨.init, 1, 1⟩ rfl (fun _ _ => rfl) (fun _ => rfl) ?_
  refine carries_cons hc ⟨.init, 1, 2⟩ rfl (fun _ _ => rfl) (fun _ => rfl) ?_
  refine carries_cons hc ⟨.init, 1, 3⟩ rfl (fun _ _ => rfl) (fun _ => rfl) ?_
  refine carries_cons hc ⟨.init, 2, 0⟩ rfl (fun _ _ => rfl) (fun _ => rfl) ?_
  refine carries_cons hc ⟨.init, 3, 0⟩ rfl (fun _ _ => rfl) (fun _ => rfl) ?_
  refine carries_cons hc ⟨.init, 3, 1⟩ rfl (fun c s => blind_wr _ _ c s) (fun _ => rfl) ?_
  refine carries_cons hc ⟨.init, 3, 2⟩ rfl (fun c s => blind_rd _ _ c s) (fun _ => rfl) ?_
  refine carries_cons hc ⟨.init, 4, 0⟩ rfl blind_init3c (fun _ => rfl) ?_
  refine carries_cons hc ⟨.init, 4, 1⟩ rfl (fun c s => blind_wr _ _ c s) (fun _ => rfl) ?_
  refine carries_cons hc ⟨.init, 5, 0⟩ rfl (fun _ _ => rfl) (fun _ => rfl) ?_
  refine carries_cons hc ⟨.init, 5, 1⟩ rfl (fun c s => blind_rd _ _ c s) (fun _ => rfl) ?_
  exact carries_cons hc ⟨.init, 6, 0⟩ rfl blind_init5b (fun _ => rfl) (carries_configuration hc)

/-- The end of an attempt does not depend on the step that raised. -/
theorem abortInit_goto (e : Err) (p : Pos) (s : State) : abortInit e (goto p s) = abortInit e s := rfl

/-- One attempt in its steps: it ends bring-up, or its raise is taken, or it is refused. -/
theorem runs_initAttempt {s : State} (hp : s.phase = .bringup) (hs : s.seq = ⟨.init, 1, 0⟩)
    (hops : s.ops = []) : match runSteps initSteps s with
      | .ok t => Runs s (.next t)
      | .raised e t => Runs s (.next (abortInit e t))
      | .refused q => Runs s (.refused q) := by
  have hc : Sequencing s := ⟨by simp [hp], hops⟩
  have hrun := carries_initAttempt hc s
  have hw : within (goto ⟨.init, 1, 0⟩ s) s = s := by rw [← hs]; rfl
  have ho := only_initAttempt s
  rw [hw] at hrun
  rw [runSteps_initSteps]
  cases hr : runSteps initBusSteps (initOpened s) with
  | ok t =>
    rw [hr] at ho hrun
    refine hrun.trans (hc.next rfl ?_)
    rw [within_of_sameContext ho]
    exact Runs.refl _
  | raised e t =>
    rw [hr] at ho hrun
    obtain ⟨p, hrt, hrun⟩ := hrun
    obtain ⟨hsame, hfatal, -⟩ := ho
    rwa [takeRaise_init hrt hfatal, within_of_sameContext hsame, abortInit_goto] at hrun
  | refused q => rw [hr] at hrun; exact hrun

theorem runs_initAttempts (n : Nat) {s : State} (hp : s.phase = .bringup) (hs : s.seq = ⟨.init, 1, 0⟩)
    (hops : s.ops = []) (hn : s.retriesLeft = n) : Runs s (outcome (initAttempts n s) id) := by
  induction n generalizing s with
  | zero =>
    have h := runs_initAttempt hp hs hops
    unfold initAttempts
    cases hr : runSteps initSteps s <;> rw [hr] at h <;> exact h
  | succ n ih =>
    have h := runs_initAttempt hp hs hops
    unfold initAttempts
    cases hr : runSteps initSteps s with
    | ok t => rw [hr] at h; exact h
    | raised e t =>
      rw [hr] at h
      obtain ⟨hc, -⟩ := initAttempt_raised hr
      have ht : abortInit e t = restartInit t := by simp [abortInit, hc.retriesLeft, hn]
      have hnext := ih (s := restartInit t) (hc.phase.trans hp) rfl (hc.ops.trans hops)
        (by simp [restartInit, hc.retriesLeft, hn])
      rw [← ht] at hnext
      exact h.trans hnext
    | refused q => rw [hr] at h; exact h

/-- Settles O58: one attempt after the other. -/
theorem stepsMakeInit : Obligations.StepsMakeInit := by
  intro s hp hs _ hops
  rw [exec_init hp]
  exact runs_initAttempts _ hp hs hops rfl

/-! ### `ACQUIRE` (R129) -/

/-- A lap that passes the deadline test took a clock value before the deadline (R122). -/
theorem acquire6Deadline_ok {s t : State} (h : acquire6Deadline s = .ok t) :
    nextNow s.env - s.samples.acqT0 < tAcqTimeout ∧ t = now .none s := by
  unfold acquire6Deadline at h
  split at h
  · cases h
  next hd =>
    cases h
    exact ⟨by simpa [deadlineReached] using hd, rfl⟩

theorem acquire6Sample_ok {s t : State} (h : acquire6Sample s = .ok t) : Sampling s t := by
  have hs := only_acquire6Sample s
  rwa [h] at hs

/-- One lap, when the laps after it are the machine's: they start later than the clock value of this one, which
is before the deadline (R122). -/
theorem carries_lap {c : State} (hc : Sequencing c) (n : Nat) (s : State)
    (h : nextNow s.env - s.samples.acqT0 < tAcqTimeout → ∀ (u : State) (y : Nat),
      u.samples.acqT0 = s.samples.acqT0 → u.env.clock = some y → nextNow s.env < y →
      Carries c .acquire (within (goto ⟨.acquire, 6, 1⟩ c) u) (within (goto ⟨.acquire, 7, 0⟩ c))
        (acquireLoop n u)) :
    Carries c .acquire (within (goto ⟨.acquire, 6, 1⟩ c) s) (within (goto ⟨.acquire, 7, 0⟩ c))
      (acquireLoop (n + 1) s) := by
  rw [acquireLoop_succ]
  refine (carries_piece hc (k := within (goto ⟨.acquire, 6, 2⟩ c)) rfl blind_acquire6Deadline
    rfl fun _ => rfl).andThen fun t ht => ?_
  obtain ⟨hlt, rfl⟩ := acquire6Deadline_ok ht
  refine (carries_piece hc (k := fun u => afterSample (within (goto ⟨.acquire, 6, 2⟩ c) u)) rfl
    blind_acquire6Sample rfl fun _ => rfl).andThen fun u hu => ?_
  have hs := acquire6Sample_ok hu
  obtain ⟨y, hy, hle⟩ := hs.clock (nextNow s.env) (by simp)
  have hrx : rxComplete (within (goto ⟨.acquire, 6, 2⟩ c) u) = rxComplete u := rfl
  simp only [afterSample, hrx]
  split
  · exact carries_ok c _ (within (goto ⟨.acquire, 7, 0⟩ c)) u
  · have hw : (acquire6Wait u).env.clock = some (y + 1) := by simp [acquire6Wait, hy, tAcqStep]
    have hrest := h hlt (acquire6Wait u) (y + 1) hs.acqT0 hw (Nat.lt_succ_of_le hle)
    exact (carries_piece hc (f := fun s => .ok (acquire6Wait s))
      (k := within (goto ⟨.acquire, 6, 1⟩ c)) rfl (fun _ _ => rfl) rfl fun _ => rfl).andThen
      fun v hv => by cases hv; exact hrest

/-- The poll loop: `n + 1` laps are enough for the machine's own loop when the deadline is at most `n` ms away,
so the bound of the operation is never what ends it (R205; log 20). -/
theorem carries_acquireLoop {c : State} (hc : Sequencing c) (n : Nat) (s : State) {x : Nat}
    (hx : s.env.clock = some x) (hn : tAcqTimeout + s.samples.acqT0 ≤ x + n) :
    Carries c .acquire (within (goto ⟨.acquire, 6, 1⟩ c) s) (within (goto ⟨.acquire, 7, 0⟩ c))
      (acquireLoop (n + 1) s) := by
  induction n generalizing s x with
  | zero =>
    have hfloor : x ≤ nextNow s.env := by simpa [clockFloor, hx] using clockFloor_le_nextNow s.env
    exact carries_lap hc 0 s fun hlt => absurd (Nat.le_sub_of_add_le (hn.trans hfloor)) (Nat.not_le.2 hlt)
  | succ n ih =>
    have hfloor : x ≤ nextNow s.env := by simpa [clockFloor, hx] using clockFloor_le_nextNow s.env
    refine carries_lap hc (n + 1) s fun _ u y hT0 hy hlt => ih u hy ?_
    have hxy : x < y := Nat.lt_of_le_of_lt hfloor hlt
    rw [hT0]
    exact hn.trans (by omega)

/-- Where the sequencer goes after step 10: to the idle write of `ACQ_IDLE_AFTER`, or back (R129; D18). -/
def acquireEnd (c t : State) : State :=
  if t.params.acqIdleAfter then within (goto ⟨.acquire, 11, 0⟩ c) t else within (returnToCaller c) t

theorem afterGate_within (c t : State) :
    afterGate (within (goto ⟨.acquire, 10, 0⟩ c) t) = acquireEnd c t := by
  have hp : (within (goto ⟨.acquire, 10, 0⟩ c) t).params = t.params := rfl
  simp only [afterGate, acquireEnd, hp, returnToCaller_within]
  rfl

theorem carries_acquireTail {c : State} (hc : Sequencing c) : ∀ s,
    Carries c .acquire (within (goto ⟨.acquire, 7, 0⟩ c) s) (acquireEnd c) (runSteps acquireTail s) := by
  refine carries_cons hc ⟨.acquire, 8, 0⟩ rfl blind_acquire7 (fun _ => rfl) ?_
  refine carries_cons hc ⟨.acquire, 9, 0⟩ rfl blind_acquire8 (fun _ => rfl) ?_
  refine carries_cons hc ⟨.acquire, 9, 1⟩ rfl (fun c s => blind_rd _ _ c s) (fun _ => rfl) ?_
  refine carries_cons hc ⟨.acquire, 9, 2⟩ rfl (fun c s => blind_rd _ _ c s) (fun _ => rfl) ?_
  refine carries_cons hc ⟨.acquire, 9, 3⟩ rfl (fun c s => blind_rd _ _ c s) (fun _ => rfl) ?_
  refine carries_cons hc ⟨.acquire, 9, 4⟩ rfl (fun c s => blind_rd _ _ c s) (fun _ => rfl) ?_
  refine carries_cons hc ⟨.acquire, 10, 0⟩ rfl (fun c s => blind_rd _ _ c s) (fun _ => rfl) fun s => ?_
  exact (carries_piece hc (k := acquireEnd c) rfl blind_acquire10 rfl (afterGate_within c)).andThen
    fun t _ => carries_ok c _ _ t

/-- The entry of the poll loop makes the deadline 100 ms away, so the 101 laps of the operation are enough. -/
theorem carries_acquirePolls {c : State} (hc : Sequencing c) (s : State) :
    Carries c .acquire (within (goto ⟨.acquire, 6, 0⟩ c) s) (acquireEnd c)
      (runSteps (acquire6Entry :: acquireLoop acquireLaps :: acquireTail) s) := by
  have hentry := carries_piece hc (p := ⟨.acquire, 6, 0⟩) (f := acquire6Entry) (s := s)
    (k := within (goto ⟨.acquire, 6, 1⟩ c)) rfl (fun _ _ => rfl) rfl fun _ => rfl
  refine hentry.andThen fun t ht => ?_
  cases ht
  have hlaps : tAcqTimeout + nextNow s.env ≤ nextNow s.env + 100 := (Nat.add_comm _ _).le
  exact (carries_acquireLoop hc 100 (now .acqT0 s) (popNow_clock s.env) hlaps).andThen
    fun u _ => carries_acquireTail hc u

theorem acquireBody_eq (s : State) : acquireBody s =
    runSteps (acquireHead ++ acquireLoop acquireLaps :: acquireTail) s :=
  (runSteps_append acquireHead (acquireLoop acquireLaps :: acquireTail) s).symm

theorem carries_acquireBody {c : State} (hc : Sequencing c) (s : State) :
    Carries c .acquire (within (goto ⟨.acquire, 0, 0⟩ c) s) (acquireEnd c) (acquireBody s) := by
  rw [acquireBody_eq]
  revert s
  refine carries_cons hc ⟨.acquire, 1, 0⟩ rfl (f := acquire0) (fun _ _ => rfl) (fun _ => rfl) ?_
  refine carries_cons hc ⟨.acquire, 2, 0⟩ rfl (fun c s => blind_wr _ _ c s) (fun _ => rfl) ?_
  refine carries_cons hc ⟨.acquire, 3, 0⟩ rfl (fun c s => blind_wr _ _ c s) (fun _ => rfl) ?_
  refine carries_cons hc ⟨.acquire, 4, 0⟩ rfl (fun c s => blind_wr _ _ c s) (fun _ => rfl) ?_
  refine carries_cons hc ⟨.acquire, 4, 1⟩ rfl (fun c s => blind_wr _ _ c s) (fun _ => rfl) ?_
  refine carries_cons hc ⟨.acquire, 5, 0⟩ rfl (fun c s => blind_wr _ _ c s) (fun _ => rfl) ?_
  refine carries_cons hc ⟨.acquire, 5, 1⟩ rfl (fun c s => blind_wr _ _ c s) (fun _ => rfl) ?_
  exact carries_cons hc ⟨.acquire, 6, 0⟩ rfl blind_acquire5b (fun _ => rfl) (carries_acquirePolls hc)

/-- In `ACQUIRE` a raise is taken the same way at every step (R129, R169). -/
theorem takeRaise_inAcquire {c s : State} {p : Pos} (e : Err) (hp : p.routine = .acquire) :
    takeRaise e (within (goto p c) s) =
      if idleFollows e s then within (goto ⟨.acquire, 11, 0⟩ c) (abortAcquire s)
      else within (returnToCaller c) (abortAcquire s) := by
  have hi : idleFollows e (within (goto p c) s) = idleFollows e s := rfl
  have hr : (within (goto p c) s).seq.routine = .acquire := hp
  have ha : abortAcquire (within (goto p c) s) = within (goto p c) (abortAcquire s) := rfl
  simp only [takeRaise, hr, hi, ha, returnToCaller_within]
  rfl

/-- Step 11 in its step: the idle write and the return (D18). -/
theorem runs_acquireIdle {c s t : State} (hc : Sequencing c) (h : acquireIdle s = .ok t) :
    Runs (within (goto ⟨.acquire, 11, 0⟩ c) s) (.next (within (returnToCaller c) t)) := by
  have hrun := carries_piece hc (p := ⟨.acquire, 11, 0⟩) (f := acquire11) (s := s)
    (k := within (returnToCaller c)) rfl (fun c s => blind_wr _ _ c s) rfl (returnToCaller_within _ c)
  unfold acquireIdle at h
  cases hr : acquire11 s with
  | ok u => rw [hr] at h hrun; cases h; exact hrun
  | raised e u =>
    have hk := only_wr s.params.chip.command.toByte s.params.chip.cmdIdle s
    rw [show wr s.params.chip.command.toByte s.params.chip.cmdIdle s = .raised e u from hr] at hk
    rw [hr] at h hrun
    cases h
    obtain ⟨p, hp, hrun⟩ := hrun
    have hi : idleFollows e u = false := by simp [idleFollows, hk.2.1]
    simpa [takeRaise_inAcquire e hp, hi] using hrun
  | refused q => rw [hr] at h; cases h

/-- `ACQUIRE` in its steps, from its first one to the return (R12). -/
theorem runs_acquire {c s t : State} (hc : Sequencing c) (h : acquireRun s = .ok t) :
    Runs (within (goto ⟨.acquire, 0, 0⟩ c) s) (.next (within (returnToCaller c) t)) := by
  have hrun := carries_acquireBody hc s
  unfold acquireRun at h
  cases hr : acquireBody s with
  | ok u =>
    rw [hr] at h hrun
    refine hrun.trans ?_
    dsimp only at h
    unfold acquireEnd
    split at h
    next hi => rw [if_pos hi]; exact runs_acquireIdle hc h
    next hi => rw [if_neg hi]; cases h; exact .refl _
  | raised e u =>
    rw [hr] at h hrun
    obtain ⟨p, hp, hrun⟩ := hrun
    refine hrun.trans ?_
    rw [takeRaise_inAcquire e hp]
    dsimp only at h
    split at h
    next hi => rw [if_pos hi]; exact runs_acquireIdle hc h
    next hi => rw [if_neg hi]; cases h; exact .refl _
  | refused q => rw [hr] at h; cases h

/-! ### `POLL` (R140) -/

/-- Steps 4 to 7 after a successful acquisition (R146 to R151). -/
theorem runs_pollReport {c : State} (hc : Sequencing c) (s : State) :
    Runs (within (goto ⟨.poll, 4, 0⟩ c) s)
      (.next (within (goto ⟨.poll, 8, 0⟩ c) (poll7 (pollReport s)))) := by
  have hlast : ∀ u, Runs (within (goto ⟨.poll, 7, 0⟩ c) u)
      (.next (within (goto ⟨.poll, 8, 0⟩ c) (poll7 u))) := fun u => hc.next rfl (.refl _)
  refine hc.next (u := within (goto ⟨.poll, 5, 0⟩ c) (poll4 s)) rfl ?_
  by_cases hd : emitDue (poll4 s) = true
  · rw [pollReport_of_due hd]
    refine hc.next (u := within (goto ⟨.poll, 6, 0⟩ c) (poll4 s)) ?_ ?_
    · show Host.Outcome.next (if emitDue (poll4 s) = true then _ else _) = _
      rw [if_pos hd]; rfl
    · exact hc.next rfl (hlast (poll6 (poll4 s)))
  · rw [pollReport_of_not_due hd]
    refine hc.next (u := within (goto ⟨.poll, 7, 0⟩ c) (poll4 s)) ?_ (hlast _)
    show Host.Outcome.next (if emitDue (poll4 s) = true then _ else _) = _
    rw [if_neg hd]; rfl

/-- Steps 3 to 7, with the call of `ACQUIRE` (R143 to R151). -/
theorem runs_pollRise {c s t : State} (hc : Sequencing c) (hl : c.link = none) (h : acquireRun s = .ok t) :
    Runs (within (goto ⟨.poll, 3, 0⟩ c) s) (.next (within (goto ⟨.poll, 8, 0⟩ c)
      (poll7 (if t.samples.acqOk then pollReport t else t)))) := by
  have hcall : Sequencing { c with link := some ⟨.poll, 3, 1⟩ } := ⟨hc.running, hc.noOps⟩
  have hacq := runs_acquire hcall h
  have hret : within (returnToCaller { c with link := some ⟨.poll, 3, 1⟩ }) t =
      within (goto ⟨.poll, 3, 1⟩ c) t := by simp [returnToCaller, within, hl]
  rw [hret] at hacq
  refine hc.next rfl (hacq.trans ?_)
  by_cases hok : t.samples.acqOk = true
  · rw [if_pos hok]
    refine hc.next (u := within (goto ⟨.poll, 4, 0⟩ c) t) ?_ (runs_pollReport hc t)
    show Host.Outcome.next (if t.samples.acqOk = true then _ else _) = _
    rw [if_pos hok]; rfl
  · rw [if_neg hok]
    refine hc.next (u := within (goto ⟨.poll, 7, 0⟩ c) t) ?_ (hc.next rfl (.refl _))
    show Host.Outcome.next (if t.samples.acqOk = true then _ else _) = _
    rw [if_neg hok]; rfl

/-- The report keeps the context. -/
theorem sameContext_pollReport (s : State) : SameContext s (pollReport s) := by
  by_cases h : emitDue (poll4 s) = true
  · rw [pollReport_of_due h]; exact ⟨rfl, rfl, rfl, rfl⟩
  · rw [pollReport_of_not_due h]; exact ⟨rfl, rfl, rfl, rfl⟩

/-- Steps 2 to 7: the dispatch on the edge and what follows it (R142). -/
theorem runs_pollEdge {c s : State} (hc : Sequencing c) (hl : c.link = none) (hb : s.busOpen = true) :
    ∃ t, pollEdge s = .ok t ∧ SameContext s t ∧
      Runs (within (goto ⟨.poll, 2, 0⟩ c) s) (.next (within (goto ⟨.poll, 8, 0⟩ c) t)) := by
  have hdispatch : ∀ {q t}, pollDispatch (within (goto ⟨.poll, 2, 0⟩ c) s) = within (goto q c) t →
      sequencerStep (within (goto ⟨.poll, 2, 0⟩ c) s) = .next (within (goto q c) t) :=
    fun h => congrArg _ h
  unfold pollEdge
  split
  next hd =>
    exact ⟨s, rfl, .refl s, hc.next (hdispatch (by simp [pollDispatch, within, goto, hd])) (.refl _)⟩
  next hd hp =>
    exact ⟨pollFall s, rfl, ⟨rfl, rfl, rfl, rfl⟩,
      hc.next (hdispatch (by simp [pollDispatch, pollFall, within, goto, hd, hp])) (.refl _)⟩
  next hd hp =>
    exact ⟨s, rfl, .refl s, hc.next (hdispatch (by simp [pollDispatch, within, goto, hd, hp])) (.refl _)⟩
  next hd hp =>
    exact ⟨s, rfl, .refl s, hc.next (hdispatch (by simp [pollDispatch, within, goto, hd, hp])) (.refl _)⟩
  next hd hp =>
    obtain ⟨t, ht, hq⟩ := acquireRun_completes hb
    refine ⟨_, by rw [pollRise, ht]; rfl, ?_,
      hc.next (hdispatch (by simp [pollDispatch, within, goto, hd, hp])) (runs_pollRise hc hl ht)⟩
    have hr : SameContext t (if t.samples.acqOk then pollReport t else t) := by
      split
      · exact sameContext_pollReport t
      · exact .refl t
    exact (hq.sameContext.trans hr).trans ⟨rfl, rfl, rfl, rfl⟩

/-- Settles O60: the call of `DETECT`, the cycle from its dispatch, and the delay. -/
theorem stepsMakePoll : Obligations.StepsMakePoll := by
  intro s hp hs hops hb
  have hrunning : s.phase ≠ .halted := by simp [hp]
  have hcall : Sequencing { s with link := some ⟨.poll, 2, 0⟩ } := ⟨hrunning, hops⟩
  have hback : Sequencing { s with link := none } := ⟨hrunning, hops⟩
  obtain ⟨d, hd, hq⟩ := detectRun_completes hb
  obtain ⟨t, ht, hsame, hedge⟩ := runs_pollEdge hback rfl (hq.busOpen.trans hb)
  have hexec : exec .poll s = .next { poll8 t with link := none } := by
    simp [exec, execPoll, perform, pollRun, hp, hd, ht]
  have hlast : poll8 (within (goto ⟨.poll, 8, 0⟩ { s with link := none }) t) =
      { poll8 t with link := none } := by
    have hst := hq.sameContext.trans hsame
    simp [poll8, delay, log, goto, within, hst.phase, hst.retriesLeft, hst.ops]
  have hstep : step s = .next (callSub ⟨.detect, 1, 0⟩ ⟨.poll, 2, 0⟩ s) := by
    rw [step_eq_sequencerStep hrunning hops]
    simp [sequencerStep, hs, pollStep]
  obtain ⟨k, hk⟩ : Runs (callSub ⟨.detect, 1, 0⟩ ⟨.poll, 2, 0⟩ s) (exec .poll s) := by
    rw [hexec, ← hlast]
    exact (runs_detect hcall hb hd).trans (hedge.trans (hback.next rfl (.refl _)))
  exact ⟨k + 1, Nat.succ_pos k, (run_succ (M := core) hstep k).trans hk⟩

end Sys2Proof.Machine
end

section
/-! PROOFS. The statements of 20_memory.md: register indices above 0x3F (R43), the first received byte of a read
(R47), progress whatever the environment answers (R55), and the bring-up of a chip that meets the premises P1
and P2 of R55. -/

namespace Sys2Proof.Machine

open Sys2Proof.Safety

/-! ### Register indices and received bytes (R43, R47) -/

theorem legalIndex_above {a : Byte} (ha : ¬ a ≤ 0x3F#8) : legalIndex a = false := decide_eq_false ha

theorem wr_above {a : Byte} (v : Byte) (s : State) (ha : ¬ a ≤ 0x3F#8) :
    wr a v s = .refused .indexAbove3F := by simp [wr, legalIndex_above ha]

theorem rdSending_above (d : Byte) {a : Byte} (dst : Dest) (s : State) (ha : ¬ a ≤ 0x3F#8) :
    rdSending d a dst s = .refused .indexAbove3F := by simp [rdSending, legalIndex_above ha]

/-- Its read is refused, so no write follows (R43, R86). -/
theorem setBits_above {a : Byte} (m : Byte) (s : State) (ha : ¬ a ≤ 0x3F#8) :
    setBits a m s = .refused .indexAbove3F := by
  rw [setBits, rdSending_above _ _ _ ha, Res.andThen_refused]

/-- A piece that is refused makes a refused operation. -/
theorem perform_refused {f : State → Res} {s : State} {q : Refusal} (hp : s.phase ≠ .halted)
    (h : f s = .refused q) : perform f s = .refused q := by
  rw [perform_running f hp, h, outcome_refused]

/-- Settles O9: each of the three operations is refused at its first index, before the bus is looked at. -/
theorem indexAbove3FRefused : Obligations.IndexAbove3FRefused := fun s _ v hp ha =>
  ⟨perform_refused hp (wr_above v s ha), perform_refused hp (rdSending_above v _ s ha),
    perform_refused hp (setBits_above v s ha)⟩

/-- Settles O14: both runs put `r1` into the same register, and `rx0`, the trace and the environment are where
the transaction recorded the rest. -/
theorem firstReceivedByteIgnored : Obligations.FirstReceivedByteIgnored := by
  intro s t t' e' a d r0 r0' r1 hn hn' h h'
  obtain rfl := rd_of_exec hn h
  obtain rfl := rd_of_exec hn' h'
  cases readDest s.seq <;> rfl

/-! ### Progress (R55, R81) -/

/-- A piece that is not refused is a step, wherever the sequencer goes on. -/
theorem outcome_answers {K : Err → Bool} {P : State → Prop} {r : Res} (h : r.Does K P)
    (k : State → State) : ∃ t, outcome r k = .next t :=
  (outcome_cases h k).imp fun _ ht => ht.1

theorem does_init3c (s : State) : (init3c s).Does fatalInInit (Quiet s) := by
  unfold init3c
  split
  · exact does_raise _ rfl (Quiet.refl s)
  · exact Quiet.refl s

theorem does_init5b (s : State) : (init5b s).Does fatalInInit (Quiet s) := by
  unfold init5b
  split
  · exact does_raise _ rfl (Quiet.refl s)
  · exact Quiet.refl s

theorem does_acquire5b {s : State} (h : s.busOpen = true) : (acquire5b s).Does notInit (Quiet s) :=
  does_andThen (does_wr' _ _ h) fun t _ => (sampling_acqState _ t).toQuiet

/-- Every position of `INIT` has its step, and the bus is open at those that use it (R92). -/
theorem initStep_answers {s : State} {n k : Nat}
    (hpos : initPosition s.params.chip.configWrites.length n k = true)
    (hb : 2 < n → s.busOpen = true) : ∃ t, initStep n k s = .next t := by
  unfold initStep
  split
  · exact ⟨_, rfl⟩
  · exact ⟨_, rfl⟩
  · exact ⟨_, rfl⟩
  · exact ⟨_, rfl⟩
  · exact ⟨_, rfl⟩
  · exact outcome_answers (does_wr _ (legalIndex_toByte _) (hb (by simp))) _
  · exact outcome_answers (does_rd _ _ (hb (by simp))) _
  · exact outcome_answers (does_init3c s) _
  · exact outcome_answers (does_wr _ (legalIndex_toByte _) (hb (by simp))) _
  · exact ⟨_, rfl⟩
  · exact outcome_answers (does_rd _ _ (hb (by simp))) _
  · exact outcome_answers (does_init5b s) _
  · split
    · exact outcome_answers (does_wr _ (legalIndex_toByte _) (hb (by simp))) _
    next hnone =>
      have hlast : k = s.params.chip.configWrites.length :=
        Nat.le_antisymm (of_decide_eq_true hpos) (List.getElem?_eq_none_iff.1 hnone)
      rw [if_pos hlast]
      exact outcome_answers (does_setBits _ (legalIndex_toByte _) (hb (by simp))) _
  · exact ⟨_, rfl⟩
  · grind [initPosition]

/-- Every position of `DETECT` has its step (R118). -/
theorem detectStep_answers {s : State} {n k : Nat} (hpos : detectPosition n k = true)
    (hb : s.busOpen = true) : ∃ t, detectStep n k s = .next t := by
  unfold detectStep
  split
  · exact outcome_answers (does_wr _ (legalIndex_toByte _) hb) _
  · exact outcome_answers (does_wr _ (legalIndex_toByte _) hb) _
  · exact outcome_answers (does_wr _ (legalIndex_toByte _) hb) _
  · exact outcome_answers (does_wr _ (legalIndex_toByte _) hb) _
  · exact outcome_answers (does_wr _ (legalIndex_toByte _) hb) _
  · exact ⟨_, rfl⟩
  · exact outcome_answers (does_rd _ _ hb) _
  · exact outcome_answers (does_wr _ (legalIndex_toByte _) hb) _
  · exact ⟨_, rfl⟩
  · grind [detectPosition]

/-- Every position of `ACQUIRE` has its step (R129). -/
theorem acquireStep_answers {s : State} {i : Bool} {n k : Nat} (hpos : acquirePosition i n k = true)
    (hb : s.busOpen = true) : ∃ t, acquireStep n k s = .next t := by
  unfold acquireStep
  split
  · exact ⟨_, rfl⟩
  · exact outcome_answers (does_wr' _ _ hb) _
  · exact outcome_answers (does_wr' _ _ hb) _
  · exact outcome_answers (does_wr' _ _ hb) _
  · exact outcome_answers (does_wr' _ _ hb) _
  · exact outcome_answers (does_wr' _ _ hb) _
  · exact outcome_answers (does_wr' _ _ hb) _
  · exact outcome_answers (does_acquire5b hb) _
  · exact ⟨_, rfl⟩
  · exact outcome_answers (does_acquire6Deadline s) _
  · exact outcome_answers (does_acquire6Sample hb) _
  · exact ⟨_, rfl⟩
  · exact outcome_answers (does_acquire7 hb) _
  · exact outcome_answers (does_acquire8 hb) _
  · exact outcome_answers (does_rd' _ _ hb) _
  · exact outcome_answers (does_rd' _ _ hb) _
  · exact outcome_answers (does_rd' _ _ hb) _
  · exact outcome_answers (does_rd' _ _ hb) _
  · exact outcome_answers (does_rd' _ _ hb) _
  · exact outcome_answers (does_acquire10 s) _
  · exact outcome_answers (does_wr' _ _ hb) _
  · unfold acquirePosition at hpos
    split at hpos <;> grind

/-- Every position of `POLL` has its step (R140). -/
theorem pollStep_answers {n k : Nat} (hpos : pollPosition n k = true) (s : State) :
    ∃ t, pollStep n k s = .next t := by
  unfold pollStep
  split
  · exact ⟨_, rfl⟩
  · exact ⟨_, rfl⟩
  · exact ⟨_, rfl⟩
  · exact ⟨_, rfl⟩
  · exact ⟨_, rfl⟩
  · exact ⟨_, rfl⟩
  · exact ⟨_, rfl⟩
  · exact ⟨_, rfl⟩
  · exact ⟨_, rfl⟩
  · grind [pollPosition]

/-- Settles O53: the invariant puts the sequencer at a position of one of the four step lists, with the bus
open where the step needs it. -/
theorem invariantStepAnswers : Obligations.InvariantStepAnswers := by
  intro s h hp
  rw [step_eq_sequencerStep hp h.noOps]
  unfold sequencerStep
  rcases placed_cases h.placed hp with ⟨-, hi⟩ | ⟨hq, hi | hi | hi⟩
  · simpa only [hi.routine] using initStep_answers hi.position hi.bus
  · simpa only [hi.routine] using pollStep_answers hi.position s
  · simpa only [hi.routine] using detectStep_answers hi.position hq.busOpen
  · simpa only [hi.routine] using acquireStep_answers hi.position hq.busOpen

/-! ### The bring-up of a working chip (R55, R94, R96, R99) -/

/-- A trace item that a working chip can show: no transaction fails, the scratch register reads back 0x8D (P1),
the version register shows neither 0x00 nor 0xFF (P2). -/
def WorkingItem (p : Params) (ev : Event) : Prop :=
  isBusFailure ev = false ∧
    ∀ r0 r1, (ev = didRead p p.chip.tMode r0 r1 → r1 = 0x8D) ∧
      (ev = didRead p p.chip.version r0 r1 → r1 ≠ 0x00 ∧ r1 ≠ 0xFF)

/-- `t` follows `s` with the same parameters and a longer trace. -/
structure Since (s t : State) : Prop where
  params : t.params = s.params
  trace : s.trace <+: t.trace

theorem Since.trans {s t u : State} (h : Since s t) (k : Since t u) : Since s u :=
  ⟨k.params.trans h.params, h.trace.trans k.trace⟩

theorem Quiet.since {s t : State} (h : Quiet s t) : Since s t := ⟨h.params, h.trace⟩

theorem since_initOpened (s : State) : Since s (initOpened s) :=
  ⟨rfl, by simp [initOpened]⟩

theorem since_abortInit (e : Err) (s : State) : Since s (abortInit e s) := by
  unfold abortInit
  split
  · exact ⟨rfl, List.prefix_rfl⟩
  · exact ⟨(kept_restartInit s).params, (kept_restartInit s).trace⟩

/-- `t`'s trace since `s` shows the item `ev`. -/
def Shows (s t : State) (ev : Event) : Prop := ev ∈ t.trace.drop s.trace.length

theorem Shows.later {s t u : State} {ev : Event} (h : Shows s t ev) (k : Since t u) : Shows s u ev :=
  (k.trace.drop s.trace.length).mem h

/-- An item that is added later on is shown. -/
theorem Since.shows {s t u : State} {ev : Event} (h : Since s t) (hu : u.trace = t.trace ++ [ev]) :
    Shows s u ev := by
  rw [Shows, hu, List.drop_append_of_le_length h.trace.length_le]
  simp

/-- The chip is to blame: since `s` the trace shows an item that no working chip shows. -/
def Blamed (s t : State) : Prop := ∃ ev, Shows s t ev ∧ ¬ WorkingItem s.params ev

theorem Blamed.later {s t u : State} (h : Blamed s t) (k : Since t u) : Blamed s u :=
  have ⟨ev, hev, hbad⟩ := h
  ⟨ev, hev.later k, hbad⟩

/-- The piece leads to `Q`, or it raises and the chip is to blame. -/
def Res.BlamesChip (s : State) (Q : State → Prop) : Res → Prop
  | .ok t => Q t
  | .raised _ t => Blamed s t
  | .refused _ => True

theorem Res.BlamesChip.andThen {s : State} {Q Q' : State → Prop} {r : Res} {f : State → Res}
    (h : r.BlamesChip s Q) (hf : ∀ t, Q t → (f t).BlamesChip s Q') : (r.andThen f).BlamesChip s Q' := by
  cases r with
  | ok t => exact hf t h
  | raised e t => exact h
  | refused q => trivial

theorem Res.BlamesChip.mono {s : State} {Q Q' : State → Prop} {r : Res} (h : r.BlamesChip s Q)
    (hq : ∀ t, Q t → Q' t) : r.BlamesChip s Q' := by
  cases r with
  | ok t => exact hq t h
  | raised e t => exact h
  | refused q => trivial

/-- A transaction raises only if it failed. -/
theorem blamesChip_xfer {s u : State} (h : Since s u) (b0 b1 : Byte) :
    (xfer b0 b1 u).BlamesChip s fun t => ∃ r0 r1, t = xferDone b0 b1 r0 r1 u := by
  rcases xfer_cases b0 b1 u with ⟨_, hx⟩ | ⟨_, _, hx⟩ | ⟨r0, r1, _, _, hx⟩ <;> rw [hx]
  · trivial
  · have hfail : Shows s (xferFailed b0 b1 u) (.xfer b0 b1 .fail) := h.shows rfl
    exact ⟨_, hfail.later (quiet_raised _ _).since, fun hw => by cases hw.1⟩
  · exact ⟨r0, r1, rfl⟩

theorem blamesChip_wr {s u : State} (h : Since s u) (a : RegIx) (v : Byte) :
    (wr a.toByte v u).BlamesChip s (Since s) := by
  rw [wr, if_pos (legalIndex_toByte a)]
  refine (blamesChip_xfer h _ v).mono fun t ht => ?_
  obtain ⟨r0, r1, rfl⟩ := ht
  exact h.trans (quiet_xferDone _ _ _ _ u).since

/-- A read shows the value that it puts into its register. -/
theorem blamesChip_rd {s u : State} (h : Since s u) (a : RegIx) (dst : Dest) :
    (rd a dst u).BlamesChip s fun t => Since s t ∧
      ∃ r0 r1 v, t = setDest dst r1 v ∧ Shows s t (didRead s.params a r0 r1) := by
  rw [rd, rdSending, if_pos (legalIndex_toByte a)]
  refine (blamesChip_xfer h _ _).andThen fun t ht => ?_
  obtain ⟨r0, r1, rfl⟩ := ht
  refine ⟨h.trans ((quiet_xferDone _ _ _ _ u).trans (quiet_setDest dst _ _)).since, r0, r1, _, rfl, ?_⟩
  refine Shows.later (h.shows (ev := didRead s.params a r0 r1) ?_) (quiet_setDest dst _ _).since
  rw [xferDone_trace, didRead, h.params]

/-- A raise after a bad item. -/
theorem blamed_raise {s t : State} (e : Err) (h : Blamed s t) {Q : State → Prop} :
    (raise e t).BlamesChip s Q := h.later (quiet_raised e t).since

theorem blamesChip_init3b {s u : State} (h : Since s u) : (init3b u).BlamesChip s fun t =>
    Since s t ∧ ∃ r0, Shows s t (didRead s.params s.params.chip.tMode r0 t.samples.probeS) := by
  rw [init3b, h.params]
  refine (blamesChip_rd h _ .probeS).mono fun t ⟨ht, r0, r1, v, hv, hr⟩ => ⟨ht, r0, ?_⟩
  rw [hv] at hr ⊢
  exact hr

/-- The compare raises only on a value that contradicts P1 (R94). -/
theorem blamesChip_init3c {s t : State} (h : Since s t) {r0 : Byte}
    (hr : Shows s t (didRead s.params s.params.chip.tMode r0 t.samples.probeS)) :
    (init3c t).BlamesChip s (Since s) := by
  unfold init3c
  split
  next hw =>
    refine blamed_raise _ ⟨_, hr, fun hwork => ?_⟩
    exact of_decide_eq_true hw ((hwork.2 _ _).1 rfl)
  next => exact h

theorem blamesChip_init5a {s u : State} (h : Since s u) : (init5a u).BlamesChip s fun t =>
    Since s t ∧ ∃ r0, Shows s t (didRead s.params s.params.chip.version r0 t.samples.verS) := by
  rw [init5a, h.params]
  refine (blamesChip_rd h _ .verS).mono fun t ⟨ht, r0, r1, v, hv, hr⟩ => ⟨ht, r0, ?_⟩
  rw [hv] at hr ⊢
  exact hr

/-- The version test raises only on a value that contradicts P2 (R96). -/
theorem blamesChip_init5b {s t : State} (h : Since s t) {r0 : Byte}
    (hr : Shows s t (didRead s.params s.params.chip.version r0 t.samples.verS)) :
    (init5b t).BlamesChip s (Since s) := by
  unfold init5b
  split
  next hw =>
    refine blamed_raise _ ⟨_, hr, fun hwork => ?_⟩
    obtain ⟨h00, hFF⟩ := (hwork.2 _ _).2 rfl
    simp only [versionAbsent, Bool.or_eq_true, decide_eq_true_eq] at hw
    exact hw.elim h00 hFF
  next => exact h

theorem blamesChip_configWriteAll (ws : List (RegIx × Byte)) {s u : State} (h : Since s u) :
    (configWriteAll ws u).BlamesChip s (Since s) := by
  induction ws generalizing u with
  | nil => exact h
  | cons w ws ih => exact (blamesChip_wr h w.1 w.2).andThen fun _ ht => ih ht

theorem blamesChip_init6b {s u : State} (h : Since s u) : (init6b u).BlamesChip s (Since s) :=
  (blamesChip_rd h u.params.chip.txControl .txcS).andThen fun _ ht => blamesChip_wr ht.1 _ _

/-- The steps of an attempt on the bus, in order: none raises unless the chip is to blame. -/
theorem blamesChip_initBusSteps {s u : State} (h : Since s u) :
    (runSteps initBusSteps u).BlamesChip s (Since s) := by
  refine (blamesChip_wr h _ _).andThen fun u h => ?_
  refine (blamesChip_init3b h).andThen fun u ⟨h, _, hprobe⟩ => ?_
  refine (blamesChip_init3c h hprobe).andThen fun u h => ?_
  refine (blamesChip_wr h _ _).andThen fun u h => ?_
  have hwait := h.trans (quiet_delay tSoftReset u).since
  refine (blamesChip_init5a hwait).andThen fun u ⟨h, _, hver⟩ => ?_
  refine (blamesChip_init5b h hver).andThen fun u h => ?_
  refine (blamesChip_configWriteAll _ h).andThen fun u h => ?_
  exact (blamesChip_init6b h).andThen fun _ h => h

/-- What `INIT` can end with: the end of a first attempt without a raise, or what its raise leads to. -/
theorem initAttempts_eq_next {n : Nat} {s t : State} (h : outcome (initAttempts n s) id = .next t) :
    runSteps initSteps s = .ok t ∨ ∃ e u, runSteps initSteps s = .raised e u ∧
      (t = abortInit e u ∨ ∃ m < n, outcome (initAttempts m (abortInit e u)) id = .next t) := by
  cases hr : runSteps initSteps s with
  | ok u =>
    have hok : initAttempts n s = .ok u := by cases n <;> simp [initAttempts, hr]
    rw [hok] at h
    cases h
    exact .inl rfl
  | raised e u =>
    refine .inr ⟨e, u, rfl, ?_⟩
    cases n with
    | zero => simp only [initAttempts, hr] at h; cases h; exact .inl rfl
    | succ n => simp only [initAttempts, hr] at h; exact .inr ⟨n, Nat.lt_succ_self n, h⟩
  | refused q =>
    have hno : initAttempts n s = .refused q := by cases n <;> simp [initAttempts, hr]
    rw [hno] at h
    cases h

/-- An attempt, however it ends, follows on its start. -/
theorem since_initAttempt (s : State) : (runSteps initSteps s).Only fatalInInit (Since s) := by
  have ho := (only_initBusSteps (initOpened s)).imp fun t ht => (since_initOpened s).trans ht.since
  rw [runSteps_initSteps]
  cases hr : runSteps initBusSteps (initOpened s) with
  | ok u => rw [hr] at ho; exact ⟨ho.params, ho.trace⟩
  | raised e u => rw [hr] at ho; exact ho
  | refused q => trivial

theorem since_initAttempts {n : Nat} {s t : State} (h : outcome (initAttempts n s) id = .next t) :
    Since s t := by
  induction n using Nat.strong_induction_on generalizing s with
  | _ n ih =>
    have ho := since_initAttempt s
    rcases initAttempts_eq_next h with hr | ⟨e, u, hr, hend⟩ <;> rw [hr] at ho
    · exact ho
    · have hu := ho.1.trans (since_abortInit e u)
      rcases hend with rfl | ⟨m, hm, hnext⟩
      · exact hu
      · exact hu.trans (ih m hm hnext)

/-- An attempt without a raise ends bring-up (R99). -/
theorem phase_of_initAttempt {s t : State} (h : runSteps initSteps s = .ok t) : t.phase = .polling := by
  rw [runSteps_initSteps] at h
  cases hr : runSteps initBusSteps (initOpened s) <;> rw [hr] at h <;> cases h
  rfl

/-- Settles O32: a raise in the first attempt would leave an item that the premises exclude, and no later attempt
takes it back, so the first attempt goes through. -/
theorem workingChipIsBroughtUp : Obligations.WorkingChipIsBroughtUp := by
  intro s t hp h hwork
  rw [exec_init hp] at h
  rcases initAttempts_eq_next h with hr | ⟨e, u, hr, hend⟩
  · exact phase_of_initAttempt hr
  · have hblamed : Blamed s u := by
      have hb := blamesChip_initBusSteps (since_initOpened s)
      rwa [initBusSteps_of_raised hr] at hb
    have hlater : Since u t := by
      rcases hend with rfl | ⟨m, -, hnext⟩
      · exact since_abortInit e u
      · exact (since_abortInit e u).trans (since_initAttempts hnext)
    obtain ⟨ev, hev, hbad⟩ := hblamed.later hlater
    exact absurd (hwork ev hev) hbad

end Sys2Proof.Machine
end

section
/-! PROOFS. The statements of 30_encoding.md about words: the fields of an address byte (R61), decoding and
encoding as inverses of each other (R60 to R66, R74, R75), and what a step makes of a placed operation (R71). -/

namespace Sys2Proof

open Machine

/-! ### Register indices and the fields of an address byte (R61) -/

/-- A legal index is a six-bit one (R43). -/
theorem exists_regIx {a : Byte} (ha : legalIndex a = true) : ∃ x : RegIx, a = x.toByte := by
  have hle : a.toNat ≤ 63 := of_decide_eq_true ha
  refine ⟨a.setWidth 6, BitVec.eq_of_toNat_eq ?_⟩
  simp only [RegIx.toByte, BitVec.toNat_setWidth]
  omega

@[simp] theorem toByte_inj (x y : RegIx) : x.toByte = y.toByte ↔ x = y :=
  ⟨fun h => by simpa [RegIx.toByte] using congrArg (BitVec.setWidth 6) h, congrArg _⟩

@[simp] theorem frameIndex_addrByte (x : RegIx) (r : Bool) : frameIndex (addrByte x.toByte r) = x.toByte := by
  decide +revert

@[simp] theorem frameIsRead_addrByte (a : Byte) (r : Bool) : frameIsRead (addrByte a r) = r := by
  cases r <;> simp [frameIsRead, addrByte]

@[simp] theorem frameZ_addrByte (a : Byte) (r : Bool) : frameZ (addrByte a r) = false := by
  cases r <;> simp [frameZ, addrByte]

@[simp] theorem legalIndex_frameIndex (b : Byte) : legalIndex (frameIndex b) = true :=
  decide_eq_true (Nat.and_le_right (n := (b >>> 1).toNat) (m := 63))

/-- Outside bit 0 the two fields are all of an address byte. -/
theorem addrByte_fields {b : Byte} (hz : ¬ frameZ b = true) :
    addrByte (frameIndex b) (frameIsRead b) = b := by
  decide +revert

/-- Settles O8: the formula is the definition, and each field reads back what was put in. -/
theorem addressByteFields : Obligations.AddressByteFields := by
  intro a r ha
  obtain ⟨x, rfl⟩ := exists_regIx (decide_eq_true ha)
  exact ⟨rfl, frameIsRead_addrByte _ r, frameIndex_addrByte x r, frameZ_addrByte _ r⟩

/-! ### What the decoder reads from an encoding (R60, R74, R86) -/

theorem decodeBusFrame_addrByte (x : RegIx) (r : Bool) (v : Byte) :
    decodeBusFrame (addrByte x.toByte r) v = .ok (if r then .rd x.toByte v else .wr x.toByte v) := by
  cases r <;> simp [decodeBusFrame]

theorem decodePseudoFrame_read (p : Params) (x : RegIx) (v : Byte) :
    decodePseudoFrame p (addrByte x.toByte true) v =
      if x = p.chip.fifoData ∧ v = p.dummy then .ok .pop else .error .notAPseudo := by
  simp [decodePseudoFrame]

theorem decodePseudoFrame_write (p : Params) (x : RegIx) (v : Byte) :
    decodePseudoFrame p (addrByte x.toByte false) v =
      if x = p.chip.comIrq ∧ v = p.chip.irqClear then .ok .clrirq
      else if x = p.chip.fifoLevel ∧ v = p.chip.fifoFlush then .ok .flush
      else if x = p.chip.command then .ok (.cmd v)
      else if x = p.chip.fifoData then .ok (.push v)
      else .error .notAPseudo := by
  simp [decodePseudoFrame]

/-- The registers that tell the pseudo-operations apart are four different ones (R6). -/
theorem pseudo_registers_distinct {c : ChipMap} (h : c.wf = true) :
    c.fifoLevel ≠ c.comIrq ∧ c.command ≠ c.comIrq ∧ c.command ≠ c.fifoLevel ∧
      c.fifoData ≠ c.comIrq ∧ c.fifoData ≠ c.fifoLevel ∧ c.fifoData ≠ c.command := by
  have hnodup : c.addresses.Nodup := by
    simp only [ChipMap.wf, Bool.and_eq_true, decide_eq_true_eq] at h
    exact h.1.1.1.1
  simp only [ChipMap.addresses, List.nodup_cons, List.mem_cons, not_or] at hnodup
  grind

theorem operand16_of_operands {n : Nat} (hn : n < 65536) : operand16 (operandHi n) (operandLo n) = n := by
  simp only [operand16, operandHi, operandLo, BitVec.toNat_ofNat]
  omega

/-- Settles O6: the fields of an address byte read back, and under R6 no frame of one pseudo-operation is
taken for another's. -/
theorem decodeOfEncode : Obligations.DecodeOfEncode := by
  intro p i hchip hi
  obtain ⟨hlevelIrq, hcmdIrq, hcmdLevel, hdataIrq, hdataLevel, hdataCmd⟩ := pseudo_registers_distinct hchip
  cases i with
  | wr a v => obtain ⟨x, rfl⟩ := exists_regIx hi; exact decodeBusFrame_addrByte x false v
  | rd a d => obtain ⟨x, rfl⟩ := exists_regIx hi; exact decodeBusFrame_addrByte x true d
  | delay n => exact congrArg (Except.ok ∘ Instr.delay) (operand16_of_operands (of_decide_eq_true hi))
  | rstline l => cases l <;> rfl
  | setbits a m => exact if_pos hi
  | clrirq => simp [encode, decode, decodePseudoFrame_write]
  | flush => simp [encode, decode, decodePseudoFrame_write, hlevelIrq]
  | cmd c => simp [encode, decode, decodePseudoFrame_write, hcmdIrq, hcmdLevel]
  | push v => simp [encode, decode, decodePseudoFrame_write, hdataIrq, hdataLevel, hdataCmd]
  | pop => simp [encode, decode, decodePseudoFrame_read]
  | reqa | anticollCl1 | uidAnswer | now | busopen | emit | init | poll | detect | acquire => rfl

/-! ### What decodes is an encoding (R60, R71, R74) -/

/-- `op` is the encoding of `i`, whose operands are legal. -/
structure IsEncoding (p : Params) (op : Op) (i : Instr) : Prop where
  encode : encode p i = op
  wf : i.wf = true

theorem isEncoding_of_decodeBusFrame (p : Params) {b0 b1 : Byte} {i : Instr}
    (h : decodeBusFrame b0 b1 = .ok i) : IsEncoding p ⟨.busFrame16, [b0, b1]⟩ i := by
  unfold decodeBusFrame at h
  split_ifs at h with hz hr <;> cases h
  · exact ⟨by rw [encode, ← hr, addrByte_fields hz], legalIndex_frameIndex b0⟩
  · exact ⟨by rw [encode, ← eq_false_of_ne_true hr, addrByte_fields hz], legalIndex_frameIndex b0⟩

theorem isEncoding_of_decodePseudoFrame (p : Params) {b0 b1 : Byte} {i : Instr}
    (h : decodePseudoFrame p b0 b1 = .ok i) : IsEncoding p ⟨.pseudo, [b0, b1]⟩ i := by
  unfold decodePseudoFrame at h
  split_ifs at h with hz hr hpop hclrirq hflush hcmd hpush
  · cases h; exact ⟨by rw [encode, ← hpop.1, ← hr, addrByte_fields hz, hpop.2], rfl⟩
  all_goals have hb := addrByte_fields hz; rw [eq_false_of_ne_true hr] at hb; cases h
  · exact ⟨by rw [encode, ← hclrirq.1, hb, hclrirq.2], rfl⟩
  · exact ⟨by rw [encode, ← hflush.1, hb, hflush.2], rfl⟩
  · exact ⟨by rw [encode, ← hcmd, hb], rfl⟩
  · exact ⟨by rw [encode, ← hpush, hb], rfl⟩

theorem isEncoding_of_decodeSetbits (p : Params) {k a m : Byte} {i : Instr}
    (h : decodeSetbits k a m = .ok i) : IsEncoding p ⟨.pseudo, [k, a, m]⟩ i := by
  unfold decodeSetbits at h
  split_ifs at h with hk ha
  cases h
  exact ⟨by rw [encode, not_not.mp hk], ha⟩

theorem isEncoding_of_decodeRoutine (p : Params) {k : Byte} {i : Instr}
    (h : decodeRoutine k = .ok i) : IsEncoding p ⟨.routine, [k]⟩ i := by
  unfold decodeRoutine at h
  split_ifs at h <;> cases h <;> subst k <;> exact ⟨rfl, rfl⟩

theorem operands_of_operand16 (hi lo : Byte) :
    operandHi (operand16 hi lo) = hi ∧ operandLo (operand16 hi lo) = lo ∧ operand16 hi lo < 65536 := by
  have hhi := hi.isLt
  have hlo := lo.isLt
  refine ⟨BitVec.eq_of_toNat_eq ?_, BitVec.eq_of_toNat_eq ?_, ?_⟩ <;>
    simp only [operand16, operandHi, operandLo, BitVec.toNat_ofNat] <;> omega

theorem isEncoding_of_decodePrim (p : Params) {bs : List Byte} {i : Instr}
    (h : decodePrim bs = .ok i) : IsEncoding p ⟨.prim, bs⟩ i := by
  unfold decodePrim at h
  split at h
  case h_1 => cases h
  case h_2 k rest =>
    split_ifs at h with hdelay hrstline hnow hrest hbusopen hrest hemit hrest
    · subst k
      split at h <;> cases h
      next hi lo =>
        obtain ⟨hhi, hlo, hn⟩ := operands_of_operand16 hi lo
        exact ⟨by rw [encode, hhi, hlo], decide_eq_true hn⟩
    · subst k
      split at h
      · split_ifs at h with hlow hhigh <;> cases h <;> subst_vars <;> exact ⟨rfl, rfl⟩
      · cases h
    all_goals cases h; subst k rest; exact ⟨rfl, rfl⟩

/-- Whatever decodes is the encoding of what was read, and well formed. -/
theorem isEncoding_of_decode {p : Params} {op : Op} {i : Instr} (h : decode p op = .ok i) :
    IsEncoding p op i := by
  obtain ⟨fmt, bytes⟩ := op
  cases fmt <;> simp only [decode] at h
  case busFrame16 =>
    split at h
    · exact isEncoding_of_decodeBusFrame p h
    · cases h
  case cardFrame7 =>
    split at h
    · split_ifs at h with hb; cases h; rw [hb]; exact ⟨rfl, rfl⟩
    · cases h
  case cardFrame16 =>
    split at h
    · split_ifs at h with hb; cases h; rw [hb.1, hb.2]; exact ⟨rfl, rfl⟩
    · cases h
  case cardAnswer40 =>
    split at h <;> cases h
    exact ⟨rfl, rfl⟩
  case prim => exact isEncoding_of_decodePrim p h
  case pseudo =>
    split at h
    · exact isEncoding_of_decodePseudoFrame p h
    · exact isEncoding_of_decodeSetbits p h
    · cases h
  case routine =>
    split at h
    · exact isEncoding_of_decodeRoutine p h
    · cases h

/-- Settles O7: every branch of the decoder that reads an operation has tested all of its bytes. -/
theorem encodeOfDecode : Obligations.EncodeOfDecode := fun _ _ _ h => (isEncoding_of_decode h).encode

/-! ### What a step makes of a placed operation (R71; log 11, log 13) -/

/-- No table word is read as a pseudo-operation's frame, so its reading rests on no parameter. -/
theorem decode_tableOp (p p' : Params) (nbits w : Nat) :
    decode p (tableOp nbits w) = decode p' (tableOp nbits w) := by
  unfold tableOp tableByteOp
  split_ifs <;> rfl

theorem decode_of_decodeTableWord (p : Params) {nbits w : Nat} {i : Instr}
    (h : decodeTableWord nbits w = some i) : decode p (tableOp nbits w) = .ok i := by
  rw [decodeTableWord, decode_tableOp _ p] at h
  split at h <;> cases h
  assumption

namespace Machine

theorem step_eq_placedStep {s : State} {op : Op} {rest : List Op} (hp : s.phase ≠ .halted)
    (hops : s.ops = op :: rest) : step s = placedStep op { s with ops := rest } := by
  simp [step, hp, hops]

theorem placedStep_ok {s : State} {op : Op} {i : Instr} (h : decode s.params op = .ok i) :
    placedStep op s = exec i s := by simp [placedStep, h]

theorem placedStep_error {s : State} {op : Op} {e : DecodeError} (h : decode s.params op = .error e) :
    placedStep op s = .refused (.undecodable e) := by simp [placedStep, h]

end Machine

/-- Settles O4: what decodes is well formed, and a table word reads alike under the parameters of the state and
the default ones. -/
theorem stepRunsPlacedOperation : Obligations.StepRunsPlacedOperation := by
  refine ⟨fun s op rest hp hops => ⟨fun i h => ⟨(isEncoding_of_decode h).wf, ?_⟩, fun e h => ?_⟩,
    fun s nbits w i hp h => ?_⟩
  · exact (step_eq_placedStep hp hops).trans (placedStep_ok h)
  · exact (step_eq_placedStep hp hops).trans (placedStep_error h)
  · exact (step_eq_placedStep (s := s.withFetchWord nbits w) hp rfl).trans
      (placedStep_ok (decode_of_decodeTableWord s.params h))

end Sys2Proof
end

section
/-! PROOFS. The statements of 30_encoding.md about operations: the pseudo-operations and their frames (R74), the
UID string (R68), and the card frames and answers (R64 to R66, R130). -/

namespace Sys2Proof.Machine

open Sys2Proof.Safety

/-! ### Answered transactions and the pseudo-operations (R74) -/

/-- A piece that completes makes a completed operation. -/
theorem perform_ok {f : State → Res} {s t : State} (hp : s.phase ≠ .halted) (h : f s = .ok t) :
    perform f s = .next t := by
  rw [perform_running f hp, h, outcome_ok, id]

/-- An answered write to a register of the `ChipMap`, outside `HALTED` (R82). -/
theorem perform_wr {s : State} {r0 r1 : Byte} (a : RegIx) (v : Byte) (hp : s.phase ≠ .halted)
    (hb : s.busOpen = true) (hn : nextAnswer s.env = .ok r0 r1) :
    perform (wr a.toByte v) s = .next (xferDone (addrByte a.toByte false) v r0 r1 s) :=
  perform_ok hp (wr_ok (legalIndex_toByte a) hb hn)

/-- Settles O18: each is performed as its expansion is, and an answered write or read is one transaction. -/
theorem pseudoOperationsExpand : Obligations.PseudoOperationsExpand := by
  refine ⟨fun s v => ⟨rfl, rfl, rfl, rfl, rfl⟩, fun s v r0 r1 hp hb hn => ⟨fun w hw => ?_, ?_⟩⟩
  · simp only [List.mem_cons, List.not_mem_nil, or_false] at hw
    rcases hw with rfl | rfl | rfl | rfl <;> exact perform_wr _ _ hp hb hn
  · exact perform_ok hp (rdSending_ok (legalIndex_toByte _) hb hn)

/-! ### Card frames into the FIFO (R64, R65) -/

theorem nextAnswer_scripted {e : Env} {a : Answer} {rest : List Answer} (h : e.answers = a :: rest) :
    nextAnswer e = a := by simp [nextAnswer, h]

theorem popAnswer_scripted {e : Env} {a : Answer} {rest : List Answer} (h : e.answers = a :: rest) :
    popAnswer e = { e with answers := rest } := by simp [popAnswer, h]

/-- A write to a register of the `ChipMap` that the script answers (R82). -/
theorem wr_scripted {s : State} {r : Byte × Byte} {rest : List Answer} (a : RegIx) (v : Byte)
    (hb : s.busOpen = true) (h : s.env.answers = .ok r.1 r.2 :: rest) :
    wr a.toByte v s = .ok { s with
      bus := ⟨addrByte a.toByte false, v, r.1, r.2⟩
      env := { s.env with answers := rest }
      trace := s.trace ++ [wrote a v r.1 r.2] } := by
  rw [wr_ok (legalIndex_toByte a) hb (nextAnswer_scripted h), xferDone, popAnswer_scripted h, wrote]

/-- A step list goes on where its first step ends. -/
theorem runSteps_cons_of_ok {f : State → Res} {s t : State} (fs : List (State → Res)) (h : f s = .ok t) :
    runSteps (f :: fs) s = runSteps fs t := by
  rw [runSteps_cons, h, Res.andThen_ok]

/-- Settles O25: the writes of each frame, one after the other, each taking the next answer of the script. -/
theorem cardFramesLoadTheFifo : Obligations.CardFramesLoadTheFifo := by
  intro s p q r rest hp hb h
  refine ⟨perform_ok hp ?_, perform_ok hp ?_⟩
  · refine (runSteps_cons_of_ok _ (wr_scripted _ _ hb h)).trans ?_
    refine (runSteps_cons_of_ok _ (wr_scripted _ _ (by exact hb) (by rfl))).trans ?_
    simp [reqaByte]
  · refine (runSteps_cons_of_ok _ (wr_scripted _ _ hb h)).trans ?_
    refine (runSteps_cons_of_ok _ (wr_scripted _ _ (by exact hb) (by rfl))).trans ?_
    refine (runSteps_cons_of_ok _ (wr_scripted _ _ (by exact hb) (by rfl))).trans ?_
    simp [anticollByte0, anticollByte1]

/-! ### Card answers (R66, R127, R130) -/

/-- The integrity gate lets an answer through whose checksum byte is the XOR (R127). -/
theorem acquire10_match {s : State} (h : checksum s.answer.uid = s.answer.chkRx) :
    acquire10 s = .ok { s with
      answer := { s.answer with chkCalc := checksum s.answer.uid }
      acqState := .valid
      samples := { s.samples with acqOk := true } } := by
  simp [acquire10, h]

/-- The integrity gate raises on every other checksum byte, with both bytes (R127). -/
theorem acquire10_mismatch {s : State} (h : checksum s.answer.uid ≠ s.answer.chkRx) :
    acquire10 s = raise (.checksumMismatch (checksum s.answer.uid) s.answer.chkRx) { s with
      answer := { s.answer with chkCalc := checksum s.answer.uid }
      acqState := .invalid } := by
  simp [acquire10, h]

theorem abortAcquire_of_not_acqOk {s : State} (h : s.samples.acqOk = false) : abortAcquire s = s := by
  rw [abortAcquire, ← h]

/-- No routine but `ACQUIRE` can raise a mismatch, and with `acq_ok` 0 already it only moves the sequencer there
(R129; log 16). -/
theorem takeRaise_checksumMismatch (c r : Byte) {s : State} (h : s.samples.acqOk = false) :
    ∃ p l, takeRaise (.checksumMismatch c r) s = { s with seq := p, link := l } := by
  cases hs : s.seq.routine with
  | none | poll | init | detect => exact ⟨s.seq, s.link, by simp [takeRaise, hs, fatalInInit, isTransport]⟩
  | acquire =>
    simp only [takeRaise, hs, abortAcquire_of_not_acqOk h]
    split
    · exact ⟨_, s.link, rfl⟩
    · unfold returnToCaller
      split
      · exact ⟨_, _, rfl⟩
      · exact ⟨_, s.link, rfl⟩

/-- Raising a mismatch where `acq_ok` is 0: it is recorded, and only the sequencer moves. -/
theorem outcome_raise_checksumMismatch (c r : Byte) {s : State} (h : s.samples.acqOk = false) :
    ∃ p l, outcome (raise (.checksumMismatch c r) s) id = .next { s with
      lastError := .checksumMismatch
      trace := s.trace ++ [.raised (.checksumMismatch c r)]
      seq := p
      link := l } :=
  have ⟨p, l, htake⟩ := takeRaise_checksumMismatch c r
    (s := log (.raised (.checksumMismatch c r)) { s with lastError := .checksumMismatch }) h
  ⟨p, l, congrArg Host.Outcome.next htake⟩

theorem exec_uidAnswer (u0 u1 u2 u3 c : Byte) {s : State} (hp : s.phase ≠ .halted) :
    exec (.uidAnswer u0 u1 u2 u3 c) s = outcome (acquire10 (loadAnswer u0 u1 u2 u3 c s)) id :=
  perform_running (fun s => acquire10 (loadAnswer u0 u1 u2 u3 c s)) hp

/-- Settles O26: the five bytes are loaded and the gate compares the fifth with the XOR of the others. -/
theorem uidAnswerResult : Obligations.UidAnswerResult := by
  refine ⟨fun s u0 u1 u2 u3 hp => ?_, fun s u0 u1 u2 u3 c hp hc => ?_⟩
  · rw [exec_uidAnswer _ _ _ _ _ hp, acquire10_match (by rfl)]
    rfl
  · have hgate := acquire10_mismatch (s := loadAnswer u0 u1 u2 u3 c s) hc.symm
    obtain ⟨p, l, hraise⟩ := outcome_raise_checksumMismatch (u0 ^^^ u1 ^^^ u2 ^^^ u3) c
      (s := { loadAnswer u0 u1 u2 u3 c s with
        answer := ⟨⟨u0, u1, u2, u3⟩, c, u0 ^^^ u1 ^^^ u2 ^^^ u3⟩, acqState := .invalid }) rfl
    rw [exec_uidAnswer _ _ _ _ _ hp, hgate]
    exact ⟨_, hraise, rfl, rfl, rfl, rfl, rfl, rfl⟩

/-! ### The UID string (R68) -/

/-- The digits of R68 in their order. -/
theorem digits_getElem? : ∀ n < 16, "0123456789ABCDEF".toList[n]? = some (hexDigit n) := by decide

theorem hexDigit_inj : ∀ m < 16, ∀ n < 16, hexDigit m = hexDigit n → m = n := by decide

/-- Two digits determine the byte: they are its halves. -/
theorem hex2_injective : Function.Injective hex2 := by
  intro a b h
  have ha := a.isLt
  have hb := b.isLt
  simp only [hex2, List.cons.injEq, and_true] at h
  have hhigh := hexDigit_inj _ (by omega) _ (by omega) h.1
  have hlow := hexDigit_inj _ (by omega) _ (by omega) h.2
  exact BitVec.eq_of_toNat_eq (by omega)

/-- The string is cut at its colons. -/
theorem uidString_injective : Function.Injective uidString := by
  intro u u' h
  obtain ⟨h0, h⟩ := List.append_inj h rfl
  obtain ⟨h1, h⟩ := List.append_inj (List.tail_eq_of_cons_eq h) rfl
  obtain ⟨h2, h⟩ := List.append_inj (List.tail_eq_of_cons_eq h) rfl
  have h3 := List.tail_eq_of_cons_eq h
  cases u
  cases u'
  rw [Uid.mk.injEq]
  exact ⟨hex2_injective h0, hex2_injective h1, hex2_injective h2, hex2_injective h3⟩

/-- Settles O24: the halves of a byte select its digits, and the string determines each byte's digits. -/
theorem uidStringFaithful : Obligations.UidStringFaithful := by
  refine ⟨fun b => ⟨_, _, rfl, ?_, ?_⟩, fun u0 u1 u2 u3 => ?_, fun u => rfl, @uidString_injective⟩
  · have hb := b.isLt
    rw [BitVec.toNat_ushiftRight, Nat.shiftRight_eq_div_pow]
    exact digits_getElem? _ (by omega)
  · rw [BitVec.toNat_and]
    exact (congrArg _ (Nat.and_two_pow_sub_one_eq_mod b.toNat 4)).trans
      (digits_getElem? _ (Nat.mod_lt _ (by decide)))
  · simp [uidString]

end Sys2Proof.Machine
end

section
/-! PROOFS. The statements of 40_transport.md: what a transfer does with the bus closed (R81), answered (R82, R83)
and failed (R84), and the two transfers of `SETBITS` (R86). -/

namespace Sys2Proof.Machine

open Sys2Proof.Safety

/-! ### Address bytes as the statements write them (R61) -/

theorem legalIndex_of_le {a : Byte} (ha : a ≤ 0x3F#8) : legalIndex a = true := decide_eq_true ha

theorem addrByte_write (a : Byte) : addrByte a false = (a <<< 1) &&& 0x7E := BitVec.or_zero

theorem addrByte_read (a : Byte) : addrByte a true = ((a <<< 1) &&& 0x7E) ||| 0x80 := rfl

/-! ### The closed bus (R81) -/

theorem wr_closed {a : Byte} (v : Byte) {s : State} (ha : legalIndex a = true) (hb : s.busOpen = false) :
    wr a v s = .refused .busNotOpen := by simp [wr, ha, xfer, hb]

theorem rdSending_closed (d : Byte) {a : Byte} (dst : Dest) {s : State} (ha : legalIndex a = true)
    (hb : s.busOpen = false) : rdSending d a dst s = .refused .busNotOpen := by simp [rdSending, ha, xfer, hb]

/-- Its read is refused, so no write follows (R86). -/
theorem setBits_closed {a : Byte} (m : Byte) {s : State} (ha : legalIndex a = true)
    (hb : s.busOpen = false) : setBits a m s = .refused .busNotOpen := by
  rw [setBits, rdSending_closed _ _ ha hb, Res.andThen_refused]

/-- A step list is refused when its first step is. -/
theorem runSteps_cons_of_refused {f : State → Res} {s : State} {q : Refusal} (fs : List (State → Res))
    (h : f s = .refused q) : runSteps (f :: fs) s = .refused q := by
  rw [runSteps_cons, h, Res.andThen_refused]

/-- `POLL` is refused with the `DETECT` that it starts with. -/
theorem pollRun_closed {s : State} (hp : s.phase = .polling) (hb : s.busOpen = false) :
    pollRun s = .refused .busNotOpen := by
  rw [pollRun, if_pos hp, detectRun_closed hb, Res.andThen_refused]

/-- Settles O10: each operation is refused at its first transaction. -/
theorem closedBusRefusesTransfers : Obligations.ClosedBusRefusesTransfers := by
  intro s a v hp hb ha
  replace ha := legalIndex_of_le ha
  refine ⟨fun i hi => ?_, fun hpoll => perform_refused hp (pollRun_closed hpoll hb)⟩
  simp only [List.mem_cons, List.not_mem_nil, or_false] at hi
  rcases hi with rfl | rfl | rfl | rfl | rfl | rfl | rfl | rfl | rfl | rfl | rfl | rfl
  · exact perform_refused hp (wr_closed v ha hb)
  · exact perform_refused hp (rdSending_closed v _ ha hb)
  · exact perform_refused hp (setBits_closed v ha hb)
  · exact perform_refused hp (wr_closed _ (legalIndex_toByte _) hb)
  · exact perform_refused hp (wr_closed _ (legalIndex_toByte _) hb)
  · exact perform_refused hp (wr_closed v (legalIndex_toByte _) hb)
  · exact perform_refused hp (wr_closed v (legalIndex_toByte _) hb)
  · exact perform_refused hp (rdSending_closed _ _ (legalIndex_toByte _) hb)
  · exact perform_refused hp (runSteps_cons_of_refused _ (wr_closed _ (legalIndex_toByte _) hb))
  · exact perform_refused hp (runSteps_cons_of_refused _ (wr_closed _ (legalIndex_toByte _) hb))
  · exact perform_refused hp (detectRun_closed hb)
  · exact perform_refused hp (acquireRun_closed hb)

/-! ### Answered transfers (R82, R83) -/

/-- Settles O11: an answered write is one transaction. -/
theorem wrResult : Obligations.WrResult := by
  intro s a v r0 r1 hp hb ha hn
  rw [← addrByte_write]
  exact perform_ok hp (wr_ok (legalIndex_of_le ha) hb hn)

/-- Settles O12: an answered read is one transaction, and its second byte goes to the register of its step. -/
theorem rdResult : Obligations.RdResult := by
  intro s a d r0 r1 hp hb ha hn
  rw [← addrByte_read]
  exact perform_ok hp (rdSending_ok (legalIndex_of_le ha) hb hn)

/-! ### Failed transfers (R84, R165, R166) -/

/-- `s` after a transaction that the environment answered with `fail` and the raise of its `TransportError`,
before that raise is taken. -/
def busFailed (b0 b1 : Byte) (s : State) : State :=
  { s with
    bus := { s.bus with tx0 := b0, tx1 := b1 }
    env := popAnswer s.env
    lastError := .transportError
    trace := s.trace ++ [.xfer b0 b1 .fail, .raised (.transportError b0)] }

theorem raise_xferFailed (b0 b1 : Byte) (s : State) :
    raise (.transportError b0) (xferFailed b0 b1 s) = .raised (.transportError b0) (busFailed b0 b1 s) := by
  simp [raise, log, xferFailed, busFailed, Err.code]

/-- An operation whose transaction fails takes the raise of that transaction. -/
theorem perform_xferFailed {f : State → Res} {s u : State} {b0 b1 : Byte} (hp : s.phase ≠ .halted)
    (h : f s = raise (.transportError b0) (xferFailed b0 b1 u)) :
    perform f s = .next (takeRaise (.transportError b0) (busFailed b0 b1 u)) := by
  rw [perform_running f hp, h, raise_xferFailed, outcome_raised]

/-- Settles O15: in `POLL` and outside every routine nothing follows the raise. -/
theorem failedTransferRaises : Obligations.FailedTransferRaises := by
  intro s a v hp hb ha hn hseq
  rw [← addrByte_read, ← addrByte_write]
  have htake (b0 : Byte) : takeRaise (.transportError b0) (busFailed b0 v s) = busFailed b0 v s :=
    takeRaise_elsewhere _ hseq
  exact ⟨(perform_xferFailed hp (wr_fail (legalIndex_of_le ha) hb hn)).trans (congrArg _ (htake _)),
    (perform_xferFailed hp (rdSending_fail (legalIndex_of_le ha) hb hn)).trans (congrArg _ (htake _))⟩

/-! ### `SETBITS` (R86) -/

/-- `t` follows `s` with no further transaction, the trace grown at most, and `txc_s` and `last_error` kept. -/
structure NoFurtherTransfer (s t : State) : Prop where
  trace : s.trace <+: t.trace
  transactions : transactions t.trace = transactions s.trace
  txcS : t.samples.txcS = s.samples.txcS
  lastError : t.lastError = s.lastError

theorem NoFurtherTransfer.refl (s : State) : NoFurtherTransfer s s := ⟨List.prefix_rfl, rfl, rfl, rfl⟩

theorem noFurtherTransfer_returnToCaller {s t : State} (h : NoFurtherTransfer s t) :
    NoFurtherTransfer s (returnToCaller t) := by
  unfold returnToCaller
  split <;> exact ⟨h.trace, h.transactions, h.txcS, h.lastError⟩

/-- Halting writes nothing to the trace, and a new attempt begins with a delay (R168; log 7). -/
theorem noFurtherTransfer_abortInit (e : Err) (s : State) : NoFurtherTransfer s (abortInit e s) := by
  unfold abortInit
  split
  · exact ⟨List.prefix_rfl, rfl, rfl, rfl⟩
  · constructor <;> simp [restartInit, isXfer]

/-- Taking a raise makes no transaction, wherever the sequencer stands (R166 (2), R168, R118, R129). -/
theorem noFurtherTransfer_takeRaise (e : Err) (s : State) : NoFurtherTransfer s (takeRaise e s) := by
  unfold takeRaise
  split
  · split
    · exact noFurtherTransfer_abortInit e s
    · exact .refl s
  · split
    · exact noFurtherTransfer_returnToCaller ⟨List.prefix_rfl, rfl, rfl, rfl⟩
    · exact .refl s
  · split
    · exact ⟨List.prefix_rfl, rfl, rfl, rfl⟩
    · exact noFurtherTransfer_returnToCaller ⟨List.prefix_rfl, rfl, rfl, rfl⟩
  · exact .refl s
  · exact .refl s

/-- `SETBITS` after its answered read: `txc_s` holds the old value, and the write is left. -/
theorem setBits_of_answered_read {s : State} {a x old : Byte} (m : Byte) (ha : legalIndex a = true)
    (hb : s.busOpen = true) (hn : nextAnswer s.env = .ok x old) :
    setBits a m s = wr a (old ||| m)
      (setDest .txcS old (xferDone (addrByte a true) s.params.dummy x old s)) := by
  rw [setBits, rdSending_ok ha hb hn, Res.andThen_ok]
  rfl

/-- `SETBITS` attempts no write after a failed read. -/
theorem setBits_of_failed_read {s : State} {a : Byte} (m : Byte) (ha : legalIndex a = true)
    (hb : s.busOpen = true) (hn : nextAnswer s.env = .fail) :
    setBits a m s = raise (.transportError (addrByte a true))
      (xferFailed (addrByte a true) s.params.dummy s) := by
  rw [setBits, rdSending_fail ha hb hn, raise, Res.andThen_raised]

/-- What an operation leaves behind whose transaction fails after `u`: that transaction and its raise,
wherever the sequencer stands, with `txc_s` as it is in `u`. -/
theorem perform_xferFailed_records {f : State → Res} {s u : State} {b0 b1 : Byte} (hp : s.phase ≠ .halted)
    (h : f s = raise (.transportError b0) (xferFailed b0 b1 u)) :
    ∃ t, perform f s = .next t ∧
      u.trace ++ [.xfer b0 b1 .fail, .raised (.transportError b0)] <+: t.trace ∧
      transactions t.trace = transactions u.trace + 1 ∧ t.samples.txcS = u.samples.txcS ∧
      t.lastError = .transportError := by
  have hk := noFurtherTransfer_takeRaise (.transportError b0) (busFailed b0 b1 u)
  have hcount : transactions (busFailed b0 b1 u).trace = transactions u.trace + 1 := by
    simp [busFailed, isXfer]
  exact ⟨_, perform_xferFailed hp h, hk.trace, hk.transactions.trans hcount, hk.txcS, hk.lastError⟩

/-- Settles O17: the read is answered or the operation ends with it; the write takes the environment's second
answer; and what a raise leads to makes no transaction and keeps `txc_s`. -/
theorem setbitsResult : Obligations.SetbitsResult := by
  intro s a m hp hb ha
  replace ha := legalIndex_of_le ha
  rw [← addrByte_read, ← addrByte_write]
  refine ⟨fun x old y z hread hwrite => ?_, fun hread => ?_, fun x old hread hwrite => ?_⟩
  · have hset := (setBits_of_answered_read m ha hb hread).trans
      (wr_ok ha (by simpa using hb) (by simpa using hwrite))
    refine (perform_ok hp hset).trans ?_
    simp [xferDone, setDest]
  · exact perform_xferFailed_records hp (setBits_of_failed_read m ha hb hread)
  · have hset := (setBits_of_answered_read m ha hb hread).trans
      (wr_fail ha (by simpa using hb) (by simpa using hwrite))
    obtain ⟨t, hexec, htrace, hcount, htxc, herr⟩ := perform_xferFailed_records hp hset
    exact ⟨t, hexec, by simpa using htrace, by simpa [isXfer] using hcount, htxc, herr⟩

end Sys2Proof.Machine
end

section
/-! PROOFS. The statements of 41_bringup.md: the primitives that only `INIT` uses (R91, R92), the phases of the
routines (R90, R140), how `INIT` always ends (R99, R101, R168), and its runs on scripted answers (R90 to R99). -/

namespace Sys2Proof.Machine

open Sys2Proof.Safety

/-! ### The reset line, the bus and the phases (R91, R92, R90, R140) -/

/-- Settles O22: outside `HALTED` each operation is performed, and it is one update and one trace item. -/
theorem rstlineAndBusopenResults : Obligations.RstlineAndBusopenResults := fun _ hp =>
  ⟨fun l => perform_running (fun s => .ok (rstLine l s)) hp, perform_running (fun s => .ok (busOpen s)) hp⟩

/-- `INIT` runs in `BRINGUP` only (R90). -/
theorem initRun_wrongPhase {s : State} (h : s.phase ≠ .bringup) : initRun s = .refused .wrongPhase := if_neg h

/-- `POLL` runs in `POLLING` only (R140). -/
theorem pollRun_wrongPhase {s : State} (h : s.phase ≠ .polling) : pollRun s = .refused .wrongPhase := if_neg h

/-- Settles O34: each routine tests the phase before its first step. -/
theorem routinesBelongToTheirPhase : Obligations.RoutinesBelongToTheirPhase := fun _ =>
  ⟨fun hp => perform_refused (by simp [hp]) (initRun_wrongPhase (by simp [hp])),
    fun hp => perform_refused (by simp [hp]) (pollRun_wrongPhase (by simp [hp]))⟩

/-! ### Pieces that keep the card (R13, R21) -/

/-- A quiet piece that also keeps the answer registers and `acq_state`. -/
structure CardKept (s t : State) : Prop extends Quiet s t where
  answer : t.answer = s.answer
  acqState : t.acqState = s.acqState

theorem CardKept.refl (s : State) : CardKept s s := ⟨Quiet.refl s, rfl, rfl⟩

theorem CardKept.trans {s t u : State} (h : CardKept s t) (k : CardKept t u) : CardKept s u :=
  ⟨h.toQuiet.trans k.toQuiet, k.answer.trans h.answer, k.acqState.trans h.acqState⟩

theorem cardKept_andThen {K : Err → Bool} {s : State} {r : Res} {f : State → Res}
    (h : r.Does K (CardKept s)) (hf : ∀ t, CardKept s t → (f t).Does K (CardKept t)) :
    (r.andThen f).Does K (CardKept s) := by
  cases r with
  | ok t => exact (hf t h).mono fun u hu => h.trans hu
  | raised e t => exact h
  | refused q => exact h

theorem cardKept_runSteps {K : Err → Bool} {fs : List (State → Res)}
    (hf : ∀ f ∈ fs, ∀ s, s.busOpen = true → (f s).Does K (CardKept s)) {s : State}
    (hs : s.busOpen = true) : (runSteps fs s).Does K (CardKept s) := by
  induction fs generalizing s with
  | nil => exact CardKept.refl s
  | cons f fs ih =>
    exact cardKept_andThen (hf f (by simp) s hs) fun t ht =>
      ih (fun g hg => hf g (by simp [hg])) (ht.busOpen.trans hs)

theorem cardKept_delay (n : Nat) (s : State) : CardKept s (delay n s) := ⟨quiet_delay n s, rfl, rfl⟩

theorem cardKept_raise {K : Err → Bool} {s t : State} (e : Err) (hk : K e = true) (h : CardKept s t) :
    (raise e t).Does K (CardKept s) :=
  ⟨h.trans ⟨quiet_raised e t, rfl, rfl⟩, hk, rfl⟩

theorem cardKept_xfer (b0 b1 : Byte) {s : State} (hb : s.busOpen = true) :
    (xfer b0 b1 s).Does isTransport (CardKept s) := by
  rcases xfer_cases b0 b1 s with ⟨h, _⟩ | ⟨_, _, hx⟩ | ⟨r0, r1, _, _, hx⟩
  · simp [hb] at h
  · rw [hx]; exact cardKept_raise _ rfl ⟨quiet_xferFailed b0 b1 s, rfl, rfl⟩
  · rw [hx]; exact ⟨quiet_xferDone b0 b1 r0 r1 s, rfl, rfl⟩

theorem cardKept_wr (a : RegIx) (v : Byte) {s : State} (hb : s.busOpen = true) :
    (wr a.toByte v s).Does isTransport (CardKept s) := by
  rw [wr, if_pos (legalIndex_toByte a)]
  exact cardKept_xfer _ v hb

/-- A read into a sample register keeps the card. -/
theorem cardKept_rd (a : RegIx) {dst : Dest} (hd : ∀ v t, (setDest dst v t).answer = t.answer) {s : State}
    (hb : s.busOpen = true) : (rd a dst s).Does isTransport (CardKept s) := by
  rw [rd, rdSending, if_pos (legalIndex_toByte a)]
  exact cardKept_andThen (cardKept_xfer _ _ hb) fun t _ =>
    ⟨quiet_setDest dst _ t, hd _ t, setDest_acqState dst _ t⟩

theorem cardKept_setBits (a : RegIx) (m : Byte) {s : State} (hb : s.busOpen = true) :
    (setBits a.toByte m s).Does isTransport (CardKept s) :=
  cardKept_andThen (cardKept_rd a (fun _ _ => rfl) hb) fun _ ht => cardKept_wr a _ (ht.busOpen.trans hb)

/-! ### How `INIT` ends (R99, R101, R168) -/

theorem cardKept_init3c (s : State) : (init3c s).Does fatalInInit (CardKept s) := by
  unfold init3c
  split
  · exact cardKept_raise _ rfl (CardKept.refl s)
  · exact CardKept.refl s

theorem cardKept_init5b (s : State) : (init5b s).Does fatalInInit (CardKept s) := by
  unfold init5b
  split
  · exact cardKept_raise _ rfl (CardKept.refl s)
  · exact CardKept.refl s

theorem cardKept_configWriteAll (ws : List (RegIx × Byte)) {s : State} (hb : s.busOpen = true) :
    (configWriteAll ws s).Does isTransport (CardKept s) := by
  induction ws generalizing s with
  | nil => exact CardKept.refl s
  | cons w ws ih => exact cardKept_andThen (cardKept_wr w.1 w.2 hb) fun t ht => ih (ht.busOpen.trans hb)

/-- Once the bus is open every step of an attempt answers, whatever the environment does (R93 to R98). -/
theorem cardKept_initBusSteps {s : State} (hs : s.busOpen = true) :
    (runSteps initBusSteps s).Does fatalInInit (CardKept s) := by
  refine cardKept_runSteps (fun f hf s hb => ?_) hs
  simp only [initBusSteps, List.mem_cons, List.not_mem_nil, or_false] at hf
  rcases hf with rfl | rfl | rfl | rfl | rfl | rfl | rfl | rfl | rfl
  · exact (cardKept_wr _ _ hb).errors fatalInInit_of_isTransport
  · exact (cardKept_rd _ (fun _ _ => rfl) hb).errors fatalInInit_of_isTransport
  · exact cardKept_init3c s
  · exact (cardKept_wr _ _ hb).errors fatalInInit_of_isTransport
  · exact cardKept_delay _ s
  · exact (cardKept_rd _ (fun _ _ => rfl) hb).errors fatalInInit_of_isTransport
  · exact cardKept_init5b s
  · exact (cardKept_configWriteAll _ hb).errors fatalInInit_of_isTransport
  · exact (cardKept_setBits _ _ hb).errors fatalInInit_of_isTransport

/-- The three errors of `INIT` by their codes (R101). -/
theorem code_of_fatalInInit {e : Err} (h : fatalInInit e = true) : e.code = .transportError ∨
    e.code = .transportUnresponsive ∨ e.code = .chipNotDetected := by
  cases e with
  | transportError _ => exact .inl rfl
  | transportUnresponsive _ => exact .inr (.inl rfl)
  | chipNotDetected _ => exact .inr (.inr rfl)
  | frameError _ => cases h
  | shortFrame _ => cases h
  | checksumMismatch _ _ => cases h
  | timeout => cases h

/-- `t` is an end of a bring-up that began in `s`: the outputs are set, the card's registers are those of `s`, and
the block polls or has halted with one of the three errors. -/
structure InitEnded (s t : State) : Prop where
  rstLine : t.rstLine = true
  busOpen : t.busOpen = true
  pres : t.pres = s.pres
  answer : t.answer = s.answer
  acqState : t.acqState = s.acqState
  params : t.params = s.params
  link : t.link = none
  mode : (t.phase = .polling ∧ t.seq = ⟨.poll, 1, 0⟩ ∧ t.haltCause = s.haltCause) ∨
    (t.phase = .halted ∧ t.seq = ⟨.none, 0, 0⟩ ∧ t.haltCause = t.lastError ∧
      (t.lastError = .transportError ∨ t.lastError = .transportUnresponsive ∨
        t.lastError = .chipNotDetected))

/-- An attempt ends bring-up, or it raises one of the three errors with the card's registers kept. -/
theorem initAttempt_cases (s : State) : (∃ t, runSteps initSteps s = .ok t ∧ InitEnded s t) ∨
    ∃ e t, runSteps initSteps s = .raised e t ∧ CardKept (initOpened s) t ∧ fatalInInit e = true ∧
      t.lastError = e.code := by
  have hd := cardKept_initBusSteps (s := initOpened s) rfl
  rw [runSteps_initSteps]
  cases hr : runSteps initBusSteps (initOpened s) with
  | ok t =>
    rw [hr] at hd
    exact .inl ⟨_, rfl, hd.rstLine, hd.busOpen, hd.pres, hd.answer, hd.acqState, hd.params, rfl,
      .inl ⟨rfl, rfl, hd.haltCause⟩⟩
  | raised e t => rw [hr] at hd; exact .inr ⟨e, t, rfl, hd⟩
  | refused q => rw [hr] at hd; exact hd.elim

/-- An attempt that goes through is the last one (R99). -/
theorem initAttempts_of_ok {s t : State} (n : Nat) (h : runSteps initSteps s = .ok t) :
    initAttempts n s = .ok t := by
  cases n <;> simp [initAttempts, h]

/-- A raise with no attempt left ends bring-up in `HALTED` (R168). -/
theorem initEnded_halt {s t : State} {e : Err} (h : CardKept (initOpened s) t) (he : fatalInInit e = true)
    (hc : t.lastError = e.code) : InitEnded s (halt e t) :=
  ⟨h.rstLine, h.busOpen, h.pres, h.answer, h.acqState, h.params, rfl,
    .inr ⟨rfl, rfl, hc.symm, by simpa [halt, hc] using code_of_fatalInInit he⟩⟩

/-- The end of a new attempt is an end of the bring-up (D24, log 7). -/
theorem InitEnded.of_restart {s t u : State} (h : CardKept (initOpened s) t)
    (k : InitEnded (restartInit t) u) : InitEnded s u where
  rstLine := k.rstLine
  busOpen := k.busOpen
  pres := k.pres.trans h.pres
  answer := k.answer.trans h.answer
  acqState := k.acqState.trans h.acqState
  params := k.params.trans h.params
  link := k.link
  mode := k.mode.imp_left fun ⟨hphase, hseq, hcause⟩ => ⟨hphase, hseq, hcause.trans h.haltCause⟩

/-- However many attempts are left, one of them ends the bring-up. -/
theorem initAttempts_ends (n : Nat) {s : State} (hn : s.retriesLeft = n) :
    ∃ t, initAttempts n s = .ok t ∧ InitEnded s t := by
  induction n generalizing s with
  | zero =>
    rcases initAttempt_cases s with ⟨t, hr, hend⟩ | ⟨e, t, hr, hk, he, hc⟩
    · exact ⟨t, initAttempts_of_ok _ hr, hend⟩
    · have hhalt : abortInit e t = halt e t := if_pos (hk.retriesLeft.trans hn)
      exact ⟨halt e t, by simp [initAttempts, hr, hhalt], initEnded_halt hk he hc⟩
  | succ n ih =>
    rcases initAttempt_cases s with ⟨t, hr, hend⟩ | ⟨e, t, hr, hk, _, _⟩
    · exact ⟨t, initAttempts_of_ok _ hr, hend⟩
    · have hleft : t.retriesLeft = n + 1 := hk.retriesLeft.trans hn
      have hrestart : abortInit e t = restartInit t := if_neg (by simp [hleft])
      obtain ⟨u, hu, hend⟩ := ih (s := restartInit t) (by simp [restartInit, hleft])
      exact ⟨u, by simp [initAttempts, hr, hrestart, hu], .of_restart hk hend⟩

/-- Settles O31: each attempt ends in `POLLING` or raises one of the three errors, and the last one halts. -/
theorem initAlwaysEnds : Obligations.InitAlwaysEnds := by
  intro s hp
  obtain ⟨t, ht, hend⟩ := initAttempts_ends _ (s := s) rfl
  exact ⟨t, by rw [exec_init hp, ht, outcome_ok, id], hend.rstLine, hend.busOpen, hend.pres, hend.answer,
    hend.acqState, hend.params, hend.link, hend.mode⟩

/-! ### Scripted transfers (R82, R83, R86, R97) -/

/-- A read of a register of the `ChipMap` that the script answers (R83). -/
theorem rd_scripted {s : State} {r : Byte × Byte} {rest : List Answer} (a : RegIx) (dst : Dest)
    (hb : s.busOpen = true) (h : s.env.answers = .ok r.1 r.2 :: rest) :
    rd a dst s = .ok (setDest dst r.2 { s with
      bus := ⟨addrByte a.toByte true, s.params.dummy, r.1, r.2⟩
      env := { s.env with answers := rest }
      trace := s.trace ++ [didRead s.params a r.1 r.2] }) := by
  rw [rd, rdSending_ok (legalIndex_toByte a) hb (nextAnswer_scripted h), xferDone, popAnswer_scripted h,
    didRead]

/-- A read-modify-write that the script answers twice (R86). -/
theorem setBits_scripted {s : State} {x y : Byte × Byte} {rest : List Answer} (a : RegIx) (m : Byte)
    (hb : s.busOpen = true) (h : s.env.answers = .ok x.1 x.2 :: .ok y.1 y.2 :: rest) :
    setBits a.toByte m s = .ok { s with
      bus := ⟨addrByte a.toByte false, x.2 ||| m, y.1, y.2⟩
      samples := { s.samples with txcS := x.2 }
      env := { s.env with answers := rest }
      trace := s.trace ++ [didRead s.params a x.1 x.2, wrote a (x.2 ||| m) y.1 y.2] } := by
  have hread := rd_scripted a .txcS hb h
  rw [rd] at hread
  rw [setBits, hread, Res.andThen_ok, wr_scripted a _ (by exact hb) (by rfl)]
  simp [setDest]

/-- The configuration writes, each taking the next answer of the script (R97). -/
theorem configWriteAll_scripted {ws : List (RegIx × Byte)} {cfg : List (Byte × Byte)} {rest : List Answer}
    {s : State} (hlen : cfg.length = ws.length) (hb : s.busOpen = true)
    (h : s.env.answers = cfg.map (fun r => Answer.ok r.1 r.2) ++ rest) :
    ∃ bus, configWriteAll ws s = .ok { s with
      bus := bus
      env := { s.env with answers := rest }
      trace := s.trace ++ List.zipWith (fun w r => wrote w.1 w.2 r.1 r.2) ws cfg } := by
  induction ws generalizing cfg s with
  | nil =>
    obtain rfl := List.length_eq_zero_iff.1 hlen
    exact ⟨s.bus, by simp [configWriteAll, ← show s.env.answers = rest from h]⟩
  | cons w ws ih =>
    obtain _ | ⟨r, cfg⟩ := cfg
    · cases hlen
    · obtain ⟨bus, hall⟩ := ih (cfg := cfg) (s := { s with
        bus := ⟨addrByte w.1.toByte false, w.2, r.1, r.2⟩
        env := { s.env with answers := cfg.map (fun r => Answer.ok r.1 r.2) ++ rest }
        trace := s.trace ++ [wrote w.1 w.2 r.1 r.2] }) (Nat.succ.inj hlen) hb rfl
      exact ⟨bus, by simp [configWriteAll, configWrite, wr_scripted w.1 w.2 hb h, hall]⟩

/-! ### `INIT` on scripted answers (R90 to R99) -/

/-- `s` after `INIT` steps 1a to 3b, when the script answers the write of 3a with `a` and the read of 3b with
`b`. -/
def scratchRead (s : State) (a b : Byte × Byte) (rest : List Answer) : State :=
  { s with
    rstLine := true
    busOpen := true
    bus := ⟨addrByte s.params.chip.tMode.toByte true, s.params.dummy, b.1, b.2⟩
    samples := { s.samples with probeS := b.2 }
    env := { s.env with answers := rest, clock := s.env.clock.map (· + 150) }
    trace := s.trace ++ [.rst false, .delayed 100, .rst true, .delayed 50, .busOpened,
      wrote s.params.chip.tMode 0x8D a.1 a.2, didRead s.params s.params.chip.tMode b.1 b.2] }

/-- `s` after `INIT` steps 1a to 5a, when the script then answers the write of 4a with `c` and the read of 5a with
`d`. -/
def versionRead (s : State) (a b c d : Byte × Byte) (rest : List Answer) : State :=
  { scratchRead s a b rest with
    bus := ⟨addrByte s.params.chip.version.toByte true, s.params.dummy, d.1, d.2⟩
    samples := { s.samples with probeS := b.2, verS := d.2 }
    env := { s.env with answers := rest, clock := s.env.clock.map (· + 200) }
    trace := (scratchRead s a b rest).trace ++
      [wrote s.params.chip.command s.params.chip.cmdSoftReset c.1 c.2, .delayed 50,
        didRead s.params s.params.chip.version d.1 d.2] }

/-- Steps 1a to 3b (R91 to R93). -/
theorem initSteps_scratchRead {s : State} {a b : Byte × Byte} {rest : List Answer}
    (h : s.env.answers = .ok a.1 a.2 :: .ok b.1 b.2 :: rest) :
    runSteps initSteps s = runSteps [init3c, init4a, init4b, init5a, init5b, init6a, init6b, init7]
      (scratchRead s a b rest) := by
  have hopen : runSteps initSteps s = runSteps [init3a, init3b, init3c, init4a, init4b, init5a, init5b, init6a,
      init6b, init7] (initOpened s) := rfl
  rw [hopen]
  refine (runSteps_cons_of_ok _ (wr_scripted (s := initOpened s) _ _ rfl h)).trans ?_
  refine (runSteps_cons_of_ok _ (rd_scripted _ _ (by rfl) (by rfl))).trans ?_
  simp [initOpened, rstLine, delay, busOpen, log, setDest, scratchRead, selfTestValue, tRstLow, tRstSettle,
    Function.comp_def]

/-- Steps 3c to 5a, when the scratch register holds (R94 to R96). -/
theorem initSteps_versionRead {s : State} {a b c d : Byte × Byte} {rest : List Answer}
    (h : s.env.answers = .ok a.1 a.2 :: .ok b.1 b.2 :: .ok c.1 c.2 :: .ok d.1 d.2 :: rest)
    (hb : b.2 = 0x8D) : runSteps initSteps s =
      runSteps [init5b, init6a, init6b, init7] (versionRead s a b c d rest) := by
  have hcompare {u : State} (hu : u.samples.probeS = b.2) : init3c u = .ok u := by
    simp [init3c, probeWrong, selfTestValue, hu, hb]
  rw [initSteps_scratchRead h]
  refine (runSteps_cons_of_ok _ (hcompare rfl)).trans ?_
  refine (runSteps_cons_of_ok _ (wr_scripted _ _ (by rfl) (by rfl))).trans ?_
  refine (runSteps_cons_of_ok _ (by rfl)).trans ?_
  refine (runSteps_cons_of_ok _ (rd_scripted _ _ (by rfl) (by rfl))).trans ?_
  simp [delay, log, setDest, scratchRead, versionRead, tSoftReset, Function.comp_def]

/-- Steps 6 and 7 (R97 to R99). -/
theorem runSteps_configuration {s : State} {e f : Byte × Byte} {cfg : List (Byte × Byte)} {rest : List Answer}
    (hlen : cfg.length = s.params.chip.configWrites.length) (hb : s.busOpen = true)
    (h : s.env.answers = cfg.map (fun r => Answer.ok r.1 r.2) ++ .ok e.1 e.2 :: .ok f.1 f.2 :: rest) :
    runSteps [init6a, init6b, init7] s = .ok { s with
      phase := .polling
      seq := ⟨.poll, 1, 0⟩
      link := none
      bus := ⟨addrByte s.params.chip.txControl.toByte false, e.2 ||| 0x03, f.1, f.2⟩
      samples := { s.samples with txcS := e.2 }
      env := { s.env with answers := rest }
      trace := s.trace ++ (List.zipWith (fun w r => wrote w.1 w.2 r.1 r.2) s.params.chip.configWrites cfg ++
        [didRead s.params s.params.chip.txControl e.1 e.2,
          wrote s.params.chip.txControl (e.2 ||| 0x03) f.1 f.2]) } := by
  obtain ⟨bus, hconfig⟩ := configWriteAll_scripted hlen hb h
  refine (runSteps_cons_of_ok (f := init6a) _ hconfig).trans ?_
  refine (runSteps_cons_of_ok _ (setBits_scripted _ _ (by exact hb) (by rfl))).trans ?_
  simp [init7, antennaMask]

/-- With no attempt left, the raise of an attempt halts the block (R168). -/
theorem exec_init_halts {s t : State} {e : Err} (hp : s.phase = .bringup) (hn : s.retriesLeft = 0)
    (h : runSteps initSteps s = .raised e t) : exec .init s = .next (halt e t) := by
  obtain ⟨hsame, -⟩ := initAttempt_raised h
  have hhalt : abortInit e t = halt e t := if_pos (hsame.retriesLeft.trans hn)
  simp [exec_init hp, hn, initAttempts, h, hhalt]

/-- The version test (R96). -/
theorem versionAbsent_iff {s : State} :
    versionAbsent s = true ↔ s.samples.verS = 0x00 ∨ s.samples.verS = 0xFF := by
  simp [versionAbsent]

/-- Settles O29: the compare of step 3c raises. -/
theorem initSelfTestFailureHalts : Obligations.InitSelfTestFailureHalts := by
  intro s a b rest hp hn h hb
  have hraise : init3c (scratchRead s a b rest) =
      raise (.transportUnresponsive b.2) (scratchRead s a b rest) := if_pos (decide_eq_true hb)
  have hrun := initSteps_scratchRead h
  rw [runSteps_cons, hraise, raise, Res.andThen_raised] at hrun
  rw [exec_init_halts hp hn hrun]
  simp [halt, log, scratchRead, Err.code]

/-- Settles O30: the version test of step 5b raises. -/
theorem initWithoutChipHalts : Obligations.InitWithoutChipHalts := by
  intro s a b c d rest hp hn h hb hd
  have hraise : init5b (versionRead s a b c d rest) =
      raise (.chipNotDetected d.2) (versionRead s a b c d rest) := if_pos (versionAbsent_iff.2 hd)
  have hrun := initSteps_versionRead h hb
  rw [runSteps_cons, hraise, raise, Res.andThen_raised] at hrun
  rw [exec_init_halts hp hn hrun]
  simp [halt, log, versionRead, scratchRead, hb, Err.code]

/-- Settles O28: past the version test nothing can raise on answered transfers, so the configuration, the antenna
and step 7 follow. -/
theorem initSucceeds : Obligations.InitSucceeds := by
  intro s a b c d e f cfg rest hp hlen h hb hd0 hdF
  have hpresent (more : List Answer) : init5b (versionRead s a b c d more) = .ok (versionRead s a b c d more) :=
    if_neg fun hv => (versionAbsent_iff.1 hv).elim hd0 hdF
  have hrun := initSteps_versionRead h hb
  rw [runSteps_cons_of_ok _ (hpresent _),
    runSteps_configuration (s := versionRead s a b c d _) hlen rfl rfl] at hrun
  rw [exec_init hp, initAttempts_of_ok _ hrun, outcome_ok]
  simp [versionRead, scratchRead, hb]

end Sys2Proof.Machine
end

section
/-! PROOFS. The statements of 42_anticollision.md that hold whatever the environment answers: the checksum (R130),
what `DETECT` and `ACQUIRE` write and how many transactions they perform (R110, R118, R129), and the integrity gate
(R127, R203). -/

namespace Sys2Proof.Machine

open Sys2Proof.Safety

/-! ### The checksum (R130) -/

theorem checksum_flip_b0 (u : Uid) (b : Byte) : checksum { u with b0 := u.b0 ^^^ b } = checksum u ^^^ b := by
  simp only [checksum]; ac_rfl

theorem checksum_flip_b1 (u : Uid) (b : Byte) : checksum { u with b1 := u.b1 ^^^ b } = checksum u ^^^ b := by
  simp only [checksum]; ac_rfl

theorem checksum_flip_b2 (u : Uid) (b : Byte) : checksum { u with b2 := u.b2 ^^^ b } = checksum u ^^^ b := by
  simp only [checksum]; ac_rfl

theorem checksum_flip_b3 (u : Uid) (b : Byte) : checksum { u with b3 := u.b3 ^^^ b } = checksum u ^^^ b := by
  simp only [checksum]; ac_rfl

/-- Flipping a bit is no identity. -/
theorem xor_singleBit_ne (x : Byte) {b : Byte} (hb : b ∈ singleBits) : x ^^^ b ≠ x := by
  have hb0 : b ≠ 0 := by rintro rfl; revert hb; decide
  simpa using hb0

/-- Settles O27: a flip in any one byte is the same flip of the checksum, so one flip shows and two equal ones
cancel. -/
theorem checksumErrorDetection : Obligations.ChecksumErrorDetection := by
  refine ⟨fun u b hb => ?_, fun u b => ?_, fun u b => ?_⟩
  · rw [checksum_flip_b0, checksum_flip_b1, checksum_flip_b2, checksum_flip_b3]
    have hne := xor_singleBit_ne (checksum u) hb
    exact ⟨hne, hne, hne, hne, hne.symm⟩
  · have hcancel {c : Byte} (hc : c = checksum u ^^^ b) : c ^^^ b = checksum u := by
      simp [hc]
    have h0 := hcancel (checksum_flip_b0 u b)
    have h1 := hcancel (checksum_flip_b1 u b)
    have h2 := hcancel (checksum_flip_b2 u b)
    exact ⟨(checksum_flip_b1 { u with b0 := u.b0 ^^^ b } b).trans h0,
      (checksum_flip_b2 { u with b0 := u.b0 ^^^ b } b).trans h0,
      (checksum_flip_b3 { u with b0 := u.b0 ^^^ b } b).trans h0,
      (checksum_flip_b2 { u with b1 := u.b1 ^^^ b } b).trans h1,
      (checksum_flip_b3 { u with b1 := u.b1 ^^^ b } b).trans h1,
      (checksum_flip_b3 { u with b2 := u.b2 ^^^ b } b).trans h2⟩
  · exact ⟨checksum_flip_b0 u b, checksum_flip_b1 u b, checksum_flip_b2 u b, checksum_flip_b3 u b⟩

/-! ### Frames by erasure, and counted transactions -/

/-- What every transaction leaves alone: `s` with the transport registers, `last_error`, the trace and the
environment erased (R80, R166 (1)). -/
def transportErased (s : State) : State :=
  { s with bus := ⟨0, 0, 0, 0⟩, lastError := .none, trace := [], env := State.reset.env }

/-- What `DETECT` leaves alone: `irq_s` and `det_s` are erased too (R118). -/
def detectErased (s : State) : State :=
  { transportErased s with samples := { s.samples with irqS := 0, detS := .absent } }

/-- What `ACQUIRE` leaves alone: the answer registers, its own samples and `acq_state` are erased too (R129). -/
def acquireErased (s : State) : State :=
  { transportErased s with
    answer := ⟨⟨0, 0, 0, 0⟩, 0, 0⟩
    samples := { s.samples with irqS := 0, errS := 0, lvlS := 0, acqT0 := 0, acqOk := false }
    acqState := .idle }

/-- The frame `π` looks at nothing that a transaction writes. -/
def IgnoresBus (π : State → State) : Prop :=
  ∀ s t, transportErased s = transportErased t → π s = π t

theorem ignoresBus_transportErased : IgnoresBus transportErased := fun _ _ h => h

theorem ignoresBus_detectErased : IgnoresBus detectErased := fun _ _ h =>
  congrArg (fun u : State => { u with samples := { u.samples with irqS := 0, detS := .absent } }) h

theorem ignoresBus_acquireErased : IgnoresBus acquireErased := fun _ _ h =>
  congrArg (fun u : State => { u with
    answer := ⟨⟨0, 0, 0, 0⟩, 0, 0⟩
    samples := { u.samples with irqS := 0, errS := 0, lvlS := 0, acqT0 := 0, acqOk := false }
    acqState := .idle }) h

/-- The result of a piece that began in `s`: the frame `π` is kept and at most `hi` transactions were performed;
if nothing was raised, they were at least `lo` and `last_error` is kept. -/
def Res.Spends (π : State → State) (s : State) (lo hi : Nat) : Res → Prop
  | .ok t => π t = π s ∧ t.lastError = s.lastError ∧
      transactions s.trace + lo ≤ transactions t.trace ∧ transactions t.trace ≤ transactions s.trace + hi
  | .raised _ t => π t = π s ∧ transactions t.trace ≤ transactions s.trace + hi
  | .refused _ => True

section
variable {π : State → State} {s t : State} {r : Res} {lo hi lo' hi' : Nat}

/-- A piece with no transaction, which goes on. -/
theorem spends_ok (hframe : π t = π s) (herr : t.lastError = s.lastError)
    (hcount : transactions t.trace = transactions s.trace) : (Res.ok t).Spends π s 0 0 :=
  ⟨hframe, herr, hcount.ge, hcount.le⟩

/-- A raise makes no transaction. -/
theorem spends_raise (hπ : IgnoresBus π) (e : Err) (hframe : π t = π s)
    (hcount : transactions t.trace ≤ transactions s.trace + hi) : (raise e t).Spends π s lo hi :=
  ⟨(hπ (log (.raised e) { t with lastError := e.code }) t rfl).trans hframe, by simpa [isXfer] using hcount⟩

theorem spends_mono (h : r.Spends π s lo hi) (hlo : lo' ≤ lo) (hhi : hi ≤ hi') : r.Spends π s lo' hi' := by
  cases r with
  | ok t =>
    obtain ⟨hframe, herr, hge, hle⟩ := h
    exact ⟨hframe, herr, by omega, by omega⟩
  | raised e t => exact ⟨h.1, h.2.trans (by omega)⟩
  | refused q => trivial

theorem spends_andThen {f : State → Res} (h : r.Spends π s lo hi)
    (hf : ∀ t, r = .ok t → (f t).Spends π t lo' hi') : (r.andThen f).Spends π s (lo + lo') (hi + hi') := by
  cases r with
  | refused q => trivial
  | raised e t => exact ⟨h.1, h.2.trans (by omega)⟩
  | ok t =>
    obtain ⟨hframe, herr, hge, hle⟩ := h
    have ht := hf t rfl
    rw [Res.andThen_ok]
    cases hr : f t with
    | refused q => trivial
    | raised e u =>
      rw [hr] at ht
      exact ⟨ht.1.trans hframe, ht.2.trans (by omega)⟩
    | ok u =>
      rw [hr] at ht
      obtain ⟨hframe', herr', hge', hle'⟩ := ht
      exact ⟨hframe'.trans hframe, herr'.trans herr, by omega, by omega⟩

/-- A step list spends what its steps spend. -/
theorem spends_runSteps {ns : List Nat} {fs : List (State → Res)}
    (h : List.Forall₂ (fun n f => ∀ s, Res.Spends π s n n (f s)) ns fs) (s : State) :
    (runSteps fs s).Spends π s ns.sum ns.sum := by
  induction h generalizing s with
  | nil => exact spends_ok rfl rfl rfl
  | cons hf _ ih => simpa using spends_andThen (hf s) fun t _ => ih t

/-- One transaction, or a refusal (R80, R81, R84). -/
theorem spends_xfer (hπ : IgnoresBus π) (b0 b1 : Byte) (s : State) : (xfer b0 b1 s).Spends π s 1 1 := by
  rcases xfer_cases b0 b1 s with ⟨-, hx⟩ | ⟨-, -, hx⟩ | ⟨r0, r1, -, -, hx⟩ <;> rw [hx]
  · trivial
  · exact spends_raise hπ _ (hπ _ s rfl) (by simp [isXfer])
  · exact ⟨hπ _ s rfl, rfl, by simp [isXfer], by simp [isXfer]⟩

theorem spends_wr (hπ : IgnoresBus π) (a v : Byte) (s : State) : (wr a v s).Spends π s 1 1 := by
  unfold wr
  split
  · exact spends_xfer hπ _ v s
  · trivial

/-- A read into a register that the frame does not look at. -/
theorem spends_rd (hπ : IgnoresBus π) (a : RegIx) {dst : Dest} (hdst : ∀ v t, π (setDest dst v t) = π t)
    (s : State) : (rd a dst s).Spends π s 1 1 := by
  rw [rd, rdSending, if_pos (legalIndex_toByte a)]
  exact spends_andThen (spends_xfer hπ _ _ s) fun t _ =>
    spends_ok (hdst _ t) (setDest_lastError dst _ t) (by simp)

end

/-! ### `DETECT` (R110, R118) -/

theorem spends_detectSteps (s : State) : (runSteps detectSteps s).Spends detectErased s 7 7 := by
  have hπ := ignoresBus_detectErased
  refine spends_runSteps (ns := [1, 1, 1, 1, 1, 0, 1, 1, 0]) ?_ s
  refine .cons (fun s => ?_) <| .cons (fun s => ?_) <| .cons (fun s => ?_) <| .cons (fun s => ?_) <|
    .cons (fun s => ?_) <| .cons (fun s => ?_) <| .cons (fun s => ?_) <| .cons (fun s => ?_) <|
    .cons (fun s => ?_) .nil
  · exact spends_wr hπ _ _ s
  · exact spends_wr hπ _ _ s
  · exact spends_wr hπ _ _ s
  · exact spends_wr hπ _ _ s
  · exact spends_wr hπ _ _ s
  · exact spends_ok rfl rfl (by simp [isXfer])
  · exact spends_rd hπ _ (fun _ _ => rfl) s
  · exact spends_wr hπ _ _ s
  · exact spends_ok rfl rfl rfl

/-- What completes completed in both of its parts. -/
theorem Res.andThen_eq_ok {r : Res} {f : State → Res} {t : State} (h : r.andThen f = .ok t) :
    ∃ u, r = .ok u ∧ f u = .ok t := by
  cases r with
  | ok u => exact ⟨u, rfl, h⟩
  | raised e u => cases h
  | refused q => cases h

/-- A step list that completes completed its last step. -/
theorem runSteps_concat_eq_ok {fs : List (State → Res)} {f : State → Res} {s t : State}
    (h : runSteps (fs ++ [f]) s = .ok t) : ∃ u, f u = .ok t := by
  rw [runSteps_append] at h
  obtain ⟨u, -, hu⟩ := Res.andThen_eq_ok h
  obtain ⟨v, hv, hend⟩ := Res.andThen_eq_ok hu
  cases hend
  exact ⟨u, hv⟩

/-- Step 9 reports a sample and never a bus fault (R116). -/
theorem detS_of_detectSteps {s t : State} (h : runSteps detectSteps s = .ok t) : t.samples.detS ≠ .busFault := by
  have hsteps : detectSteps =
      [detect1, detect2, detect3, detect4, detect5, detect6, detect7, detect8] ++ [detect9] := rfl
  rw [hsteps] at h
  obtain ⟨u, hu⟩ := runSteps_concat_eq_ok h
  cases hu
  cases rxComplete u <;> simp

theorem code_of_isTransport {e : Err} (h : isTransport e = true) : e.code = .transportError := by
  cases e with
  | transportError _ => rfl
  | transportUnresponsive _ | chipNotDetected _ | frameError _ | shortFrame _ | checksumMismatch _ _ | timeout =>
    cases h

/-- The frame of `DETECT` as the list of what it may write. -/
theorem eq_of_detectErased {s t : State} (h : detectErased t = detectErased s) : t = { s with
    bus := t.bus
    samples := { s.samples with irqS := t.samples.irqS, detS := t.samples.detS }
    lastError := t.lastError
    trace := t.trace
    env := t.env } :=
  congrArg (fun u : State => { u with
    bus := t.bus
    samples := { u.samples with irqS := t.samples.irqS, detS := t.samples.detS }
    lastError := t.lastError
    trace := t.trace
    env := t.env }) h

theorem detectRun_of_ok {s t : State} (h : runSteps detectSteps s = .ok t) : detectRun s = .ok t := by
  rw [detectRun, h]

theorem detectRun_of_raised {s t : State} {e : Err} (h : runSteps detectSteps s = .raised e t) :
    detectRun s = .ok (abortDetect t) := by
  rw [detectRun, h]

/-- Settles O37: a completed step list spends seven transactions and reports a sample; a raise is a
`TransportError` and gives `bus_fault`. -/
theorem detectFrame : Obligations.DetectFrame := by
  intro s hp hb
  have hspends := spends_detectSteps s
  have hdoes := does_detectSteps hb
  cases hr : runSteps detectSteps s with
  | ok t =>
    rw [hr] at hspends
    obtain ⟨hframe, herr, hge, hle⟩ := hspends
    exact ⟨t, perform_ok hp (detectRun_of_ok hr), eq_of_detectErased hframe, fun _ => ⟨herr, Nat.le_antisymm hle hge⟩,
      fun hfault => absurd hfault (detS_of_detectSteps hr)⟩
  | raised e t =>
    rw [hr] at hspends hdoes
    obtain ⟨-, htransport, hcode⟩ := hdoes
    exact ⟨abortDetect t, perform_ok hp (detectRun_of_raised hr), eq_of_detectErased hspends.1,
      fun hnot => absurd rfl hnot, fun _ => hcode.trans (code_of_isTransport htransport)⟩
  | refused q => rw [hr] at hdoes; exact hdoes.elim

/-! ### `ACQUIRE` (R110, R122, R129) -/

theorem spends_acquireTimeout {s t : State} {lo hi : Nat} (hframe : acquireErased t = acquireErased s)
    (hcount : transactions t.trace ≤ transactions s.trace + hi) :
    (acquireTimeout t).Spends acquireErased s lo hi :=
  spends_raise ignoresBus_acquireErased _ hframe hcount

/-- The steps of `ACQUIRE` that send the request (R119 to R121). -/
def requestSteps : List (State → Res) :=
  [acquire0, acquire1, acquire2, acquire3, acquire4a, acquire4b, acquire5a, acquire5b]

/-- `ACQUIRE` is the request, the poll loop from the clock sample `acq_t0` on, and the checks (R119 to R127). -/
theorem acquireBody_eq_request (s : State) : acquireBody s = (runSteps requestSteps s).andThen fun t =>
    (acquireLoop acquireLaps (now .acqT0 t)).andThen (runSteps acquireTail) := by
  have hsteps : acquireHead = requestSteps ++ [acquire6Entry] := rfl
  rw [acquireBody, hsteps, runSteps_append]
  cases runSteps requestSteps s <;> rfl

theorem spends_requestSteps (s : State) : (runSteps requestSteps s).Spends acquireErased s 7 7 := by
  have hπ := ignoresBus_acquireErased
  refine spends_runSteps (ns := [0, 1, 1, 1, 1, 1, 1, 1]) ?_ s
  refine .cons (fun s => ?_) <| .cons (fun s => ?_) <| .cons (fun s => ?_) <| .cons (fun s => ?_) <|
    .cons (fun s => ?_) <| .cons (fun s => ?_) <| .cons (fun s => ?_) <| .cons (fun s => ?_) .nil
  · exact spends_ok rfl rfl rfl
  · exact spends_wr hπ _ _ s
  · exact spends_wr hπ _ _ s
  · exact spends_wr hπ _ _ s
  · exact spends_wr hπ _ _ s
  · exact spends_wr hπ _ _ s
  · exact spends_wr hπ _ _ s
  · exact spends_andThen (f := fun s => .ok { s with acqState := .sentRequest }) (spends_wr hπ _ _ s) fun t _ =>
      spends_ok rfl rfl rfl

theorem spends_irqGate (s : State) : (irqGate s).Spends acquireErased s 0 0 := by
  unfold irqGate
  split
  · exact spends_ok rfl rfl rfl
  · split
    · exact spends_acquireTimeout rfl le_rfl
    · exact spends_ok rfl rfl rfl

theorem spends_acquire6Sample (s : State) : (acquire6Sample s).Spends acquireErased s 1 1 :=
  spends_andThen (spends_rd ignoresBus_acquireErased _ (fun _ _ => rfl) s) fun t _ => spends_irqGate t

theorem spends_acquire6Deadline (s : State) : (acquire6Deadline s).Spends acquireErased s 0 0 := by
  unfold acquire6Deadline
  split
  · exact spends_acquireTimeout rfl (by simp [isXfer])
  · exact spends_ok rfl rfl (by simp [isXfer])

/-- A lap that passes the deadline test took its clock value, `y`, less than 100 ms after `acq_t0` (R122). -/
theorem acquire6Deadline_early {s t : State} {x T : Nat} (hx : s.env.clock = some x) (hT : s.samples.acqT0 = T)
    (h : acquire6Deadline s = .ok t) : t = now .none s ∧ ∃ y : Nat, nextNow s.env = y ∧ x ≤ y ∧ y < T + 100 := by
  obtain ⟨hlt, rfl⟩ := acquire6Deadline_ok h
  have hfloor : x ≤ nextNow s.env := by simpa [clockFloor, hx] using clockFloor_le_nextNow s.env
  rw [hT] at hlt
  exact ⟨rfl, _, rfl, hfloor, lt_add_of_tsub_lt_left hlt⟩

/-- The poll loop samples at least once before it goes on, and at most once for each ms before the deadline,
since each lap waits 1 ms (R122). -/
theorem spends_acquireLoop (n : Nat) {s : State} {x T : Nat} (hx : s.env.clock = some x)
    (hT : s.samples.acqT0 = T) : (acquireLoop n s).Spends acquireErased s 1 (T + 100 - x) := by
  induction n generalizing s x with
  | zero => exact spends_acquireTimeout rfl (Nat.le_add_right _ _)
  | succ n ih =>
    rw [acquireLoop_succ, ← Nat.zero_add 1, ← Nat.zero_add (T + 100 - x)]
    refine spends_andThen (spends_acquire6Deadline s) fun t ht => ?_
    obtain ⟨rfl, y, hy, hxy, hlt⟩ := acquire6Deadline_early hx hT ht
    refine spends_mono (lo := 1 + 0) (hi := 1 + (T + 100 - (y + 1)))
      (spends_andThen (spends_acquire6Sample _) fun u hu => ?_) le_rfl (by omega)
    have hs := acquire6Sample_ok hu
    obtain ⟨z, hz, hle⟩ : ∃ z : Nat, u.env.clock = some z ∧ y ≤ z := hs.clock y (by simp [hy])
    split
    · exact spends_mono (spends_ok rfl rfl rfl) le_rfl (Nat.zero_le _)
    · have hwait : (Res.ok (acquire6Wait u)).Spends acquireErased u 0 0 :=
        spends_ok rfl rfl (by simp [acquire6Wait, isXfer])
      have hrest := spends_andThen hwait fun v hv => by
        cases hv
        exact ih (s := acquire6Wait u) (x := z + 1) (by simp [acquire6Wait, hz, tAcqStep]) (hs.acqT0.trans hT)
      exact spends_mono hrest (Nat.zero_le _) (by omega)

theorem spends_acquire10 (s : State) : (acquire10 s).Spends acquireErased s 0 0 := by
  by_cases h : checksum s.answer.uid = s.answer.chkRx
  · rw [acquire10_match h]; exact spends_ok rfl rfl rfl
  · rw [acquire10_mismatch h]; exact spends_raise ignoresBus_acquireErased _ rfl le_rfl

theorem spends_acquireTail (s : State) : (runSteps acquireTail s).Spends acquireErased s 7 7 := by
  have hπ := ignoresBus_acquireErased
  have herror (s : State) : (errorGate s).Spends acquireErased s 0 0 := by
    unfold errorGate
    split
    · exact spends_raise hπ _ rfl le_rfl
    · exact spends_ok rfl rfl rfl
  have hlevel (s : State) : (levelGate s).Spends acquireErased s 0 0 := by
    unfold levelGate
    split
    · exact spends_raise hπ _ rfl le_rfl
    · exact spends_ok rfl rfl rfl
  refine spends_runSteps (ns := [1, 1, 1, 1, 1, 1, 1, 0]) ?_ s
  refine .cons (fun s => ?_) <| .cons (fun s => ?_) <| .cons (fun s => ?_) <| .cons (fun s => ?_) <|
    .cons (fun s => ?_) <| .cons (fun s => ?_) <| .cons (fun s => ?_) <| .cons (fun s => ?_) .nil
  · exact spends_andThen (s := { s with acqState := .validating })
      (spends_rd hπ _ (fun _ _ => rfl) _) fun t _ => herror t
  · exact spends_andThen (spends_rd hπ _ (fun _ _ => rfl) s) fun t _ => hlevel t
  · exact spends_rd hπ _ (fun _ _ => rfl) s
  · exact spends_rd hπ _ (fun _ _ => rfl) s
  · exact spends_rd hπ _ (fun _ _ => rfl) s
  · exact spends_rd hπ _ (fun _ _ => rfl) s
  · exact spends_rd hπ _ (fun _ _ => rfl) s
  · exact spends_acquire10 s

/-- Seven writes, 1 to 100 polls and seven reads (R129). -/
theorem spends_acquireBody (s : State) : (acquireBody s).Spends acquireErased s (7 + (1 + 7)) (7 + (100 + 7)) := by
  rw [acquireBody_eq_request]
  refine spends_andThen (spends_requestSteps s) fun t _ => spends_andThen ?_ fun u _ => spends_acquireTail u
  have hentry : (Res.ok (now .acqT0 t)).Spends acquireErased t 0 0 := spends_ok rfl rfl (by simp [isXfer])
  have hloop := spends_andThen hentry fun u hu => by
    cases hu
    exact spends_acquireLoop acquireLaps (popNow_clock t.env) rfl
  exact spends_mono hloop le_rfl (by simp [now, setTimeDest])

/-! ### How `ACQUIRE` ends (R127, R129, R203) -/

/-- An acquired card: `acq_ok`, with the answer checked (R127). -/
structure Acquired (s : State) : Prop where
  acqOk : s.samples.acqOk = true
  acqState : s.acqState = .valid
  checksum : s.answer.chkRx = checksum s.answer.uid
  chkCalc : s.answer.chkCalc = s.answer.chkRx

/-- The integrity gate lets nothing else through (R127). -/
theorem acquired_of_acquire10 {s t : State} (h : acquire10 s = .ok t) : Acquired t := by
  by_cases hc : checksum s.answer.uid = s.answer.chkRx
  · rw [acquire10_match hc] at h
    cases h
    exact ⟨rfl, rfl, hc.symm, hc⟩
  · rw [acquire10_mismatch hc] at h
    cases h

theorem acquired_of_acquireBody {s t : State} (h : acquireBody s = .ok t) : Acquired t := by
  rw [acquireBody_eq_request] at h
  obtain ⟨u, -, hu⟩ := Res.andThen_eq_ok h
  obtain ⟨v, -, hv⟩ := Res.andThen_eq_ok hu
  have hsteps : acquireTail =
      [acquire7, acquire8, acquire9a, acquire9b, acquire9c, acquire9d, acquire9e] ++ [acquire10] := rfl
  rw [hsteps] at hv
  exact (runSteps_concat_eq_ok hv).elim fun _ => acquired_of_acquire10

/-- `t` is an end of an `ACQUIRE` that began in `s` and performed at most `n` transactions: a checked card with
`last_error` kept and at least 15 transactions, or `acq_ok` 0 with an error recorded. -/
structure AcquireEnded (s : State) (n : Nat) (t : State) : Prop where
  frame : acquireErased t = acquireErased s
  count : transactions t.trace ≤ transactions s.trace + n
  result : (Acquired t ∧ t.lastError = s.lastError ∧ transactions s.trace + 15 ≤ transactions t.trace) ∨
    (t.samples.acqOk = false ∧ t.lastError ≠ .none)

/-- The routine up to its idle write: its steps, and `acq_ok` 0 after a raise (R129). -/
theorem acquireBody_ended {s : State} (hb : s.busOpen = true) :
    (∃ t, acquireBody s = .ok t ∧ AcquireEnded s 114 t) ∨
    ∃ e t, acquireBody s = .raised e t ∧ AcquireEnded s 114 (abortAcquire t) := by
  have hspends := spends_acquireBody s
  have hdoes := does_acquireBody hb
  cases hr : acquireBody s with
  | ok t =>
    rw [hr] at hspends
    obtain ⟨hframe, herr, hge, hle⟩ := hspends
    exact .inl ⟨t, rfl, hframe, hle, .inl ⟨acquired_of_acquireBody hr, herr, hge⟩⟩
  | raised e t =>
    rw [hr] at hspends hdoes
    obtain ⟨-, hnot, hcode⟩ := hdoes
    have herr : t.lastError ≠ .none := by rw [hcode]; cases e <;> simp [Err.code]
    exact .inr ⟨e, t, rfl, hspends.1, hspends.2, .inr ⟨rfl, herr⟩⟩
  | refused q => rw [hr] at hdoes; exact hdoes.elim

/-- The idle write of `ACQ_IDLE_AFTER` is one more transaction, and its failure one more way to end without a
card (log 8). -/
theorem acquireIdle_ended {s t : State} {n : Nat} (h : AcquireEnded s n t) (hb : t.busOpen = true) :
    ∃ u, acquireIdle t = .ok u ∧ AcquireEnded s (n + 1) u := by
  obtain ⟨hframe, hcount, hresult⟩ := h
  have hspends : (acquire11 t).Spends transportErased t 1 1 := spends_wr ignoresBus_transportErased _ _ t
  have hdoes : (acquire11 t).Does isTransport (Quiet t) := does_wr _ (legalIndex_toByte _) hb
  unfold acquireIdle
  cases hr : acquire11 t with
  | ok u =>
    rw [hr] at hspends
    obtain ⟨hkept, herr, hge, hle⟩ := hspends
    have hsamples : u.samples = t.samples := (congrArg State.samples hkept :)
    have hanswer : u.answer = t.answer := (congrArg State.answer hkept :)
    have hstate : u.acqState = t.acqState := (congrArg State.acqState hkept :)
    refine ⟨u, rfl, (ignoresBus_acquireErased u t hkept).trans hframe, by omega, ?_⟩
    rw [hsamples, herr]
    refine hresult.imp_left fun ⟨hcard, herr', hmin⟩ => ⟨?_, herr', by omega⟩
    exact ⟨hsamples ▸ hcard.acqOk, hstate ▸ hcard.acqState, hanswer ▸ hcard.checksum, hanswer ▸ hcard.chkCalc⟩
  | raised e u =>
    rw [hr] at hspends hdoes
    obtain ⟨hkept, hle⟩ := hspends
    obtain ⟨-, htransport, hcode⟩ := hdoes
    have herr : u.lastError = .transportError := hcode.trans (code_of_isTransport htransport)
    exact ⟨abortAcquire u, rfl, (ignoresBus_acquireErased u t hkept).trans hframe, hle.trans (by omega),
      .inr ⟨rfl, by simp [abortAcquire, herr]⟩⟩
  | refused q => rw [hr] at hdoes; exact hdoes.elim

theorem AcquireEnded.mono {s t : State} {m n : Nat} (h : AcquireEnded s m t) (hle : m ≤ n) : AcquireEnded s n t :=
  ⟨h.frame, h.count.trans (by omega), h.result⟩

/-- `ACQUIRE` as a whole, with the idle write that the parameter may add (R129; D18). -/
theorem acquireRun_ended {s : State} (hb : s.busOpen = true) :
    ∃ t, acquireRun s = .ok t ∧ AcquireEnded s (114 + if s.params.acqIdleAfter then 1 else 0) t := by
  have hopen {t : State} (h : acquireErased t = acquireErased s) : t.busOpen = true :=
    (congrArg State.busOpen h :).trans hb
  have hparams {t : State} (h : acquireErased t = acquireErased s) : t.params = s.params :=
    (congrArg State.params h :)
  unfold acquireRun
  rcases acquireBody_ended hb with ⟨t, hr, hend⟩ | ⟨e, t, hr, hend⟩
  · rw [hr, ← hparams hend.frame]
    cases hidle : t.params.acqIdleAfter with
    | true => simpa [hidle] using acquireIdle_ended hend (hopen hend.frame)
    | false => simpa [hidle] using hend
  · rw [hr]
    cases hidle : idleFollows e t with
    | true =>
      have hafter : s.params.acqIdleAfter = true :=
        (hparams hend.frame).symm ▸ (Bool.and_eq_true_iff.1 hidle).1
      simpa [hidle, hafter] using acquireIdle_ended hend (hopen hend.frame)
    | false => exact ⟨_, by simp [hidle], hend.mono (Nat.le_add_right _ _)⟩

/-- The frame of `ACQUIRE` as the list of what it may write. -/
theorem eq_of_acquireErased {s t : State} (h : acquireErased t = acquireErased s) : t = { s with
    bus := t.bus
    answer := t.answer
    samples := { t.samples with
      probeS := s.samples.probeS, verS := s.samples.verS, txcS := s.samples.txcS
      nowS := s.samples.nowS, detS := s.samples.detS }
    acqState := t.acqState
    lastError := t.lastError
    trace := t.trace
    env := t.env } :=
  congrArg (fun u : State => { u with
    bus := t.bus
    answer := t.answer
    samples := { t.samples with
      probeS := u.samples.probeS, verS := u.samples.verS, txcS := u.samples.txcS
      nowS := u.samples.nowS, detS := u.samples.detS }
    acqState := t.acqState
    lastError := t.lastError
    trace := t.trace
    env := t.env }) h

/-- Settles O41: the two ends of `AcquireEnded`, of which `acq_ok` tells which it is. -/
theorem acquireFrame : Obligations.AcquireFrame := by
  intro s hp hb
  obtain ⟨t, hrun, hframe, hcount, hresult⟩ := acquireRun_ended hb
  refine ⟨t, perform_ok hp hrun, eq_of_acquireErased hframe, by rwa [Nat.add_assoc], fun hok => ?_, fun hnot => ?_⟩
  · rcases hresult with ⟨-, herr, -⟩ | ⟨hnot, -⟩
    · exact herr
    · simp [hok] at hnot
  · rcases hresult with ⟨hcard, -, -⟩ | ⟨-, herr⟩
    · simp [hcard.acqOk] at hnot
    · exact herr

/-- An `ACQUIRE` that answers with `acq_ok` 1 has acquired a card. -/
theorem acquired_of_exec {s t : State} (h : exec .acquire s = .next t) (hok : t.samples.acqOk = true) :
    Acquired t ∧ transactions s.trace + 15 ≤ transactions t.trace ∧
      transactions t.trace ≤ transactions s.trace + (114 + if s.params.acqIdleAfter then 1 else 0) := by
  have hrun := (acquireRun_of_exec h).1
  have hb : s.busOpen = true := by
    by_contra hclosed
    rw [acquireRun_closed (by simpa using hclosed)] at hrun
    cases hrun
  obtain ⟨u, hu, hend⟩ := acquireRun_ended hb
  obtain rfl : u = t := by simpa [hu] using hrun
  rcases hend.result with ⟨hcard, -, hmin⟩ | ⟨hnot, -⟩
  · exact ⟨hcard, hmin, hend.count⟩
  · simp [hok] at hnot

/-- Settles O42: the transactions beyond seven writes and seven reads are the polls. -/
theorem acquireTransactionCount : Obligations.AcquireTransactionCount := by
  intro s t hidle h hok
  obtain ⟨-, hmin, hmax⟩ := acquired_of_exec h hok
  simp only [hidle, Bool.false_eq_true, if_false] at hmax
  exact ⟨transactions t.trace - transactions s.trace - 14, by omega, by omega, by omega⟩

/-- Settles O44: only the integrity gate sets `acq_ok`. -/
theorem acquireOkMeansChecked : Obligations.AcquireOkMeansChecked := fun _ _ h hok =>
  have ⟨hcard, _, _⟩ := acquired_of_exec h hok
  ⟨hcard.acqState, hcard.checksum, hcard.chkCalc⟩

end Sys2Proof.Machine
end

section
/-! PROOFS. The statements of 42_anticollision.md about scripted answers: `DETECT` and `ACQUIRE` on answered
transactions (R111 to R127), the ways `ACQUIRE` fails (R123 to R127), and the first failed transaction of a routine
(R118, R129, R168). -/

namespace Sys2Proof.Machine

open Sys2Proof.Safety

/-! ### `DETECT` on a bus that answers (R111 to R118) -/

/-- Settles O35: the steps one after the other, each transaction taking the next answer of the script. -/
theorem detectResult : Obligations.DetectResult := by
  intro s a b c d e f g rest hp hb h
  refine perform_ok hp (detectRun_of_ok ?_)
  refine (runSteps_cons_of_ok _ (wr_scripted _ _ hb h)).trans ?_
  refine (runSteps_cons_of_ok _ (wr_scripted _ _ (by exact hb) (by rfl))).trans ?_
  refine (runSteps_cons_of_ok _ (wr_scripted _ _ (by exact hb) (by rfl))).trans ?_
  refine (runSteps_cons_of_ok _ (wr_scripted _ _ (by exact hb) (by rfl))).trans ?_
  refine (runSteps_cons_of_ok _ (wr_scripted _ _ (by exact hb) (by rfl))).trans ?_
  refine (runSteps_cons_of_ok (f := detect6) _ (by rfl)).trans ?_
  refine (runSteps_cons_of_ok _ (rd_scripted _ _ (by exact hb) (by rfl))).trans ?_
  refine (runSteps_cons_of_ok _ (wr_scripted _ _ (by exact hb) (by rfl))).trans ?_
  simp [detect9, setDest, delay, log, rxComplete, maskSet, reqaByte, tDetectSettle]

/-! ### `ACQUIRE` up to the checks (R119 to R123) -/

/-- The registers and values of the seven writes that send the request (R119 to R121). -/
def requestWrites (p : Params) : List (RegIx × Byte) :=
  [(p.chip.comIrq, p.chip.irqClear), (p.chip.fifoLevel, p.chip.fifoFlush), (p.chip.bitFraming, p.chip.bfFull),
    (p.chip.fifoData, 0x93), (p.chip.fifoData, 0x20), (p.chip.command, p.chip.cmdTransceive),
    (p.chip.bitFraming, p.chip.bfFull ||| p.chip.bfStart)]

/-- The trace items of these writes when they are answered. -/
def requestEvents (p : Params) (oks : List (Byte × Byte)) : List Event :=
  List.zipWith (fun w r => wrote w.1 w.2 r.1 r.2) (requestWrites p) oks

theorem exists_of_length_seven {α : Type} {xs : List α} (h : xs.length = 7) :
    ∃ a b c d e f g, xs = [a, b, c, d, e, f, g] := by
  match xs, h with
  | [a, b, c, d, e, f, g], _ => exact ⟨a, b, c, d, e, f, g, rfl⟩

theorem transactions_requestEvents (p : Params) {oks : List (Byte × Byte)} (h : oks.length = 7) :
    transactions (requestEvents p oks) = 7 := by
  obtain ⟨a, b, c, d, e, f, g, rfl⟩ := exists_of_length_seven h
  simp [requestEvents, requestWrites, wrote, isXfer]

/-- A clock sample that the script advances by `d` (R175). -/
theorem now_scripted {s : State} {d : Nat} {ds : List Nat} (dst : TimeDest) (h : s.env.ticks = d :: ds) :
    now dst s = setTimeDest dst (clockFloor s.env + d) { s with
      env := { s.env with ticks := ds, clock := some (clockFloor s.env + d) }
      trace := s.trace ++ [.clock (clockFloor s.env + d)] } := by
  have hnext : nextNow s.env = clockFloor s.env + d := by simp [nextNow, h]
  have hpop : popNow s.env = { s.env with ticks := ds, clock := some (clockFloor s.env + d) } := by
    simp [popNow, h, hnext]
  rw [now, hnext, hpop, log]

/-- `s` in the poll loop of `ACQUIRE`: `ev` has been added to the trace, the loop began at `t0` and the last clock
sample was `t` (R121, R122). -/
def polled (s : State) (bus : BusRegs) (irq : Byte) (t0 t : Time) (ev : List Event) (rest : List Answer)
    (ticks : List Nat) : State :=
  { s with
    acqState := .sentRequest
    samples := { s.samples with acqT0 := t0, irqS := irq, acqOk := false }
    bus := bus
    env := { s.env with answers := rest, ticks := ticks, clock := some t }
    trace := s.trace ++ ev }

/-- Steps 0 to 6 up to the first lap (R119 to R122). -/
theorem acquireHead_scripted {s : State} {oks : List (Byte × Byte)} {rest : List Answer} {d0 : Nat}
    {ticks : List Nat} (hb : s.busOpen = true) (hlen : oks.length = 7)
    (h : s.env.answers = oks.map (fun r => Answer.ok r.1 r.2) ++ rest) (ht : s.env.ticks = d0 :: ticks) :
    ∃ bus, runSteps acquireHead s = .ok (polled s bus s.samples.irqS (clockFloor s.env + d0)
      (clockFloor s.env + d0) (requestEvents s.params oks ++ [.clock (clockFloor s.env + d0)]) rest ticks) := by
  obtain ⟨a, b, c, d, e, f, g, rfl⟩ := exists_of_length_seven hlen
  refine ⟨⟨addrByte s.params.chip.bitFraming.toByte false, s.params.chip.bfFull ||| s.params.chip.bfStart,
    g.1, g.2⟩, ?_⟩
  refine (runSteps_cons_of_ok (f := acquire0) _ (by rfl)).trans ?_
  refine (runSteps_cons_of_ok _ (wr_scripted _ _ (by exact hb) (by exact h))).trans ?_
  refine (runSteps_cons_of_ok _ (wr_scripted _ _ (by exact hb) (by rfl))).trans ?_
  refine (runSteps_cons_of_ok _ (wr_scripted _ _ (by exact hb) (by rfl))).trans ?_
  refine (runSteps_cons_of_ok _ (wr_scripted _ _ (by exact hb) (by rfl))).trans ?_
  refine (runSteps_cons_of_ok _ (wr_scripted _ _ (by exact hb) (by rfl))).trans ?_
  refine (runSteps_cons_of_ok _ (wr_scripted _ _ (by exact hb) (by rfl))).trans ?_
  rw [runSteps_cons, acquire5b, wr_scripted _ _ (by exact hb) (by rfl), Res.andThen_ok, Res.andThen_ok, runSteps_cons,
    acquire6Entry, now_scripted (d := d0) (ds := ticks) _ (by exact ht)]
  simp [setTimeDest, polled, requestEvents, requestWrites, clockFloor, anticollByte0, anticollByte1]

/-- The script of an `ACQUIRE` up to a deadline test: the seven writes are answered with `oks`, the polls so far
with `polls`, none of which has a flag; the clock advances by `d0` at the start, by `ds` at the tests of these
polls and by `d1` at the next one (R122). -/
structure PollScript (s : State) (oks polls : List (Byte × Byte)) (rest : List Answer) (d0 d1 : Nat)
    (ds dr : List Nat) : Prop where
  busOpen : s.busOpen = true
  writes : oks.length = 7
  noFlag : ∀ r ∈ polls, NoFlag s.params r
  answers : s.env.answers = oks.map (fun r => Answer.ok r.1 r.2) ++ (polls.map (fun r => Answer.ok r.1 r.2) ++ rest)
  ticks : s.env.ticks = d0 :: (ds ++ d1 :: dr)
  laps : ds.length = polls.length
  inTime : ds.sum + polls.length ≤ 100

/-- What such a script puts into the trace: the writes, the start `t0`, the laps and the next test's clock. -/
def pollEvents (p : Params) (oks polls : List (Byte × Byte)) (t0 t1 : Time) (ds : List Nat) : List Event :=
  requestEvents p oks ++ .clock t0 :: (lapEvents p t0 ds polls ++ [.clock t1])

/-- One transaction per poll (R122). -/
theorem transactions_lapEvents (p : Params) (t : Time) {ds : List Nat} {polls : List (Byte × Byte)}
    (h : ds.length = polls.length) : transactions (lapEvents p t ds polls) = polls.length := by
  induction polls generalizing t ds with
  | nil => obtain rfl := List.length_eq_zero_iff.1 h; rfl
  | cons r polls ih =>
    cases ds with
    | nil => cases h
    | cons d ds => simp [lapEvents, didRead, isXfer, ih _ (Nat.succ.inj h), Nat.add_comm]

section
variable {s : State} {oks polls : List (Byte × Byte)} {rest : List Answer} {d0 d1 t0 t1 : Nat} {ds dr : List Nat}

theorem PollScript.transactions_pollEvents (h : PollScript s oks polls rest d0 d1 ds dr) (t0 t1 : Time) :
    transactions (pollEvents s.params oks polls t0 t1 ds) = 7 + polls.length := by
  simp [pollEvents, transactions_requestEvents _ h.writes, transactions_lapEvents _ _ h.laps, isXfer]

/-- `ACQUIRE` on such a script comes to a lap after its polls (R119 to R122). -/
theorem PollScript.acquireBody_laps (h : PollScript s oks polls rest d0 d1 ds dr) (ht0 : t0 = clockFloor s.env + d0) :
    ∃ n bus irq, acquireBody s = (acquireLoop (n + 1) (polled s bus irq t0 (t0 + ds.sum + polls.length)
      (requestEvents s.params oks ++ .clock t0 :: lapEvents s.params t0 ds polls) rest (d1 :: dr))).andThen
        (runSteps acquireTail) := by
  obtain ⟨bus, hhead⟩ := acquireHead_scripted h.busOpen h.writes h.answers h.ticks
  rw [← ht0] at hhead
  have htime := h.inTime
  have hlaps : acquireLaps = 100 - polls.length + 1 + polls.length := by simp only [acquireLaps]; omega
  obtain ⟨bus', irq, hloop⟩ := acquireLoop_laps (n := 100 - polls.length + 1) (c := t0) (rest := rest)
    (dr := d1 :: dr) (s := polled s bus s.samples.irqS t0 t0 (requestEvents s.params oks ++ [.clock t0])
      (polls.map (fun r => Answer.ok r.1 r.2) ++ rest) (ds ++ d1 :: dr))
    h.busOpen rfl rfl h.laps rfl (fun _ => show t0 + ds.sum + polls.length ≤ t0 + 100 by omega) h.noFlag
  refine ⟨100 - polls.length, bus', irq, ?_⟩
  rw [acquireBody, hhead, Res.andThen_ok, hlaps, hloop]
  simp [polled]

/-- The deadline test of that lap (R122, R123 (c)). -/
theorem acquire6Deadline_polled (s : State) (bus : BusRegs) (irq : Byte) (t0 t : Nat) (ev : List Event)
    (rest : List Answer) (d1 : Nat) (dr : List Nat) :
    acquire6Deadline (polled s bus irq t0 t ev rest (d1 :: dr)) =
      if 100 ≤ t + d1 - t0 then acquireTimeout (polled s bus irq t0 (t + d1) (ev ++ [.clock (t + d1)]) rest dr)
      else .ok (polled s bus irq t0 (t + d1) (ev ++ [.clock (t + d1)]) rest dr) := by
  have hnow : now .none (polled s bus irq t0 t ev rest (d1 :: dr)) =
      polled s bus irq t0 (t + d1) (ev ++ [.clock (t + d1)]) rest dr :=
    (now_scripted .none rfl).trans (by simp [setTimeDest, clockFloor, polled])
  have hreached : deadlineReached (nextNow (polled s bus irq t0 t ev rest (d1 :: dr)).env)
      (polled s bus irq t0 t ev rest (d1 :: dr)) = decide (100 ≤ t + d1 - t0) := rfl
  simp only [acquire6Deadline, hnow, hreached, decide_eq_true_eq]

/-- `ACQUIRE` on such a script after the next deadline test: it times out, or it takes one more sample. -/
theorem PollScript.acquireBody_test (h : PollScript s oks polls rest d0 d1 ds dr)
    (ht0 : t0 = clockFloor s.env + d0) (ht1 : t1 = t0 + ds.sum + polls.length + d1) :
    ∃ n bus irq, acquireBody s = ((if 100 ≤ t1 - t0 then
        acquireTimeout (polled s bus irq t0 t1 (pollEvents s.params oks polls t0 t1 ds) rest dr)
      else .ok (polled s bus irq t0 t1 (pollEvents s.params oks polls t0 t1 ds) rest dr)).andThen fun u =>
        (acquire6Sample u).andThen fun v =>
          if rxComplete v then .ok v else acquireLoop n (acquire6Wait v)).andThen (runSteps acquireTail) := by
  obtain ⟨n, bus, irq, hlaps⟩ := h.acquireBody_laps ht0
  refine ⟨n, bus, irq, ?_⟩
  rw [hlaps, acquireLoop_succ, acquire6Deadline_polled, ← ht1]
  simp [pollEvents]

/-- The sample of a lap that the script answers (R122). -/
theorem acquire6Sample_scripted {u : State} {i : Byte × Byte} (hb : u.busOpen = true)
    (h : u.env.answers = .ok i.1 i.2 :: rest) : acquire6Sample u = irqGate { u with
      bus := ⟨addrByte u.params.chip.comIrq.toByte true, u.params.dummy, i.1, i.2⟩
      samples := { u.samples with irqS := i.2 }
      env := { u.env with answers := rest }
      trace := u.trace ++ [didRead u.params u.params.chip.comIrq i.1 i.2] } := by
  rw [acquire6Sample, rd_scripted _ _ hb h, Res.andThen_ok, setDest]

end

/-! ### A raise of `ACQUIRE` without an idle write after it (R129, R169) -/

/-- An error that no idle write follows only clears `acq_ok` (R129; D18). -/
theorem exec_acquire_raised {s t : State} {e : Err} (hp : s.phase ≠ .halted) (h : acquireBody s = .raised e t)
    (hidle : idleFollows e t = false) : exec .acquire s = .next (abortAcquire t) :=
  perform_ok hp (by simp [acquireRun, h, hidle])

/-- The same with the raise written out (R165, R166 (1)). -/
theorem exec_acquire_raise {s t : State} {e : Err} (hp : s.phase ≠ .halted) (h : acquireBody s = raise e t)
    (hidle : t.params.acqIdleAfter = false) :
    exec .acquire s = .next (abortAcquire (log (.raised e) { t with lastError := e.code })) :=
  exec_acquire_raised hp h (by simp [idleFollows, hidle])

/-- The routine without a raise and without the parameter's idle write (R129). -/
theorem exec_acquire_ok {s t : State} (hp : s.phase ≠ .halted) (h : acquireBody s = .ok t)
    (hidle : t.params.acqIdleAfter = false) : exec .acquire s = .next t :=
  perform_ok hp (by simp [acquireRun, h, hidle])

/-! ### The ways the poll loop ends (R123) -/

/-- The gate on a sample with the timer flag alone (R123 (b)). -/
theorem irqGate_timer {s : State} (hrx : s.samples.irqS &&& s.params.chip.irqRx = 0)
    (htimer : s.samples.irqS &&& s.params.chip.irqTimer ≠ 0) : irqGate s = acquireTimeout s := by
  have hno : rxComplete s = false := decide_eq_false (not_not.2 hrx)
  have hyes : timerExpired s = true := decide_eq_true htimer
  simp [irqGate, hno, hyes]

/-- The gate on a sample with receive-complete, with or without the timer flag (R123 (a), R167 (b)). -/
theorem irqGate_received {s : State} (hrx : s.samples.irqS &&& s.params.chip.irqRx ≠ 0) :
    irqGate s = .ok { s with acqState := .received } := by
  have hyes : rxComplete s = true := decide_eq_true hrx
  simp [irqGate, hyes]

/-- Settles O39: after the last deadline test the loop times out at once, or on the timer flag of its sample. -/
theorem acquireTimesOut : Obligations.AcquireTimesOut := by
  intro s oks polls rest d0 d1 ds dr t0 t1 hp hb hidle hlen hnoflag ha ht hds hsum ht0 ht1
  have hscript : PollScript s oks polls rest d0 d1 ds dr := ⟨hb, hlen, hnoflag, ha, ht, hds, hsum⟩
  obtain ⟨n, bus, irq, hbody⟩ := hscript.acquireBody_test ht0 ht1
  have hcount := hscript.transactions_pollEvents t0 t1
  refine ⟨fun hlate => ?_, fun i rest' hearly hrest hrx htimer => ?_⟩
  · rw [if_pos hlate] at hbody
    refine ⟨_, exec_acquire_raise hp hbody hidle, rfl, rfl, rfl, rfl, rfl, ?_, rfl, ?_⟩
    · simp [abortAcquire, polled, hcount, isXfer]; omega
    · simp [abortAcquire]
  · subst hrest
    rw [if_neg (by omega), Res.andThen_ok, acquire6Sample_scripted (by exact hb) (by rfl),
      irqGate_timer (by exact hrx) (by exact htimer)] at hbody
    refine ⟨_, exec_acquire_raise hp hbody hidle, rfl, rfl, rfl, rfl, rfl, ?_, rfl, ?_⟩
    · simp [abortAcquire, polled, hcount, didRead, isXfer]; omega
    · simp [abortAcquire]

/-- `s` after the poll loop of `ACQUIRE` has received an answer: `ev` has been added to the trace up to the last
clock sample, `t1`, and `i` is the sample with the flag (R123 (a)). -/
def received (s : State) (i : Byte × Byte) (t0 t1 : Time) (ev : List Event) (rest : List Answer)
    (ticks : List Nat) : State :=
  { polled s ⟨addrByte s.params.chip.comIrq.toByte true, s.params.dummy, i.1, i.2⟩ i.2 t0 t1
      (ev ++ [didRead s.params s.params.chip.comIrq i.1 i.2]) rest ticks with acqState := .received }

/-- On a script with receive-complete before the deadline `ACQUIRE` comes to its checks (R122, R123 (a)). -/
theorem PollScript.acquireBody_received {s : State} {oks polls : List (Byte × Byte)} {i : Byte × Byte}
    {rest : List Answer} {d0 d1 t0 t1 : Nat} {ds dr : List Nat}
    (h : PollScript s oks polls (.ok i.1 i.2 :: rest) d0 d1 ds dr) (ht0 : t0 = clockFloor s.env + d0)
    (ht1 : t1 = t0 + ds.sum + polls.length + d1) (hearly : t1 - t0 < 100)
    (hrx : i.2 &&& s.params.chip.irqRx ≠ 0) : acquireBody s = runSteps acquireTail
      (received s i t0 t1 (pollEvents s.params oks polls t0 t1 ds) rest dr) := by
  obtain ⟨n, bus, irq, hbody⟩ := h.acquireBody_test ht0 ht1
  have hgo (u : State) (hu : u.samples.irqS &&& u.params.chip.irqRx ≠ 0) : rxComplete u = true :=
    decide_eq_true hu
  rw [hbody, if_neg (by omega), Res.andThen_ok, acquire6Sample_scripted (by exact h.busOpen) (by rfl),
    irqGate_received (by exact hrx), Res.andThen_ok, if_pos (hgo _ (by exact hrx))]
  simp [received, polled]

/-! ### The checks (R124 to R127) -/

/-- Step 7 up to its test: the error register read (R124). -/
def errorRead (s : State) (er : Byte × Byte) (rest : List Answer) : State :=
  { s with
    acqState := .validating
    bus := ⟨addrByte s.params.chip.error.toByte true, s.params.dummy, er.1, er.2⟩
    samples := { s.samples with errS := er.2 }
    env := { s.env with answers := rest }
    trace := s.trace ++ [didRead s.params s.params.chip.error er.1 er.2] }

/-- Step 8 up to its test: the fill level read (R125). -/
def levelRead (s : State) (lv : Byte × Byte) (rest : List Answer) : State :=
  { s with
    bus := ⟨addrByte s.params.chip.fifoLevel.toByte true, s.params.dummy, lv.1, lv.2⟩
    samples := { s.samples with lvlS := lv.2 }
    env := { s.env with answers := rest }
    trace := s.trace ++ [didRead s.params s.params.chip.fifoLevel lv.1 lv.2] }

/-- Step 9: the answer drained (R126). -/
def drained (s : State) (u0 u1 u2 u3 k : Byte × Byte) (rest : List Answer) : State :=
  { s with
    bus := ⟨addrByte s.params.chip.fifoData.toByte true, s.params.dummy, k.1, k.2⟩
    answer := ⟨⟨u0.2, u1.2, u2.2, u3.2⟩, k.2, s.answer.chkCalc⟩
    env := { s.env with answers := rest }
    trace := s.trace ++ [u0, u1, u2, u3, k].map fun r => didRead s.params s.params.chip.fifoData r.1 r.2 }

section
variable {s : State} {er lv u0 u1 u2 u3 k : Byte × Byte} {rest : List Answer}

theorem acquire7_scripted (hb : s.busOpen = true) (h : s.env.answers = .ok er.1 er.2 :: rest) :
    acquire7 s = errorGate (errorRead s er rest) := by
  rw [acquire7, rd_scripted _ _ (by exact hb) (by exact h), Res.andThen_ok]
  rfl

theorem acquire8_scripted (hb : s.busOpen = true) (h : s.env.answers = .ok lv.1 lv.2 :: rest) :
    acquire8 s = levelGate (levelRead s lv rest) := by
  rw [acquire8, rd_scripted _ _ hb h, Res.andThen_ok]
  rfl

theorem errorGate_raises (h : s.samples.errS &&& 0x13 ≠ 0) :
    errorGate s = raise (.frameError s.samples.errS) { s with acqState := .invalid } :=
  if_pos (decide_eq_true h)

theorem errorGate_passes (h : s.samples.errS &&& 0x13 = 0) : errorGate s = .ok s :=
  if_neg fun hbits => (of_decide_eq_true hbits : s.samples.errS &&& 0x13 ≠ 0) h

theorem levelGate_raises (h : s.samples.lvlS.toNat < 5) :
    levelGate s = raise (.shortFrame s.samples.lvlS) { s with acqState := .invalid } :=
  if_pos (by simpa [levelShort, minFifoLevel, BitVec.lt_def] using h)

theorem levelGate_passes (h : 5 ≤ s.samples.lvlS.toNat) : levelGate s = .ok s :=
  if_neg (by simpa [levelShort, minFifoLevel, BitVec.lt_def] using h)

/-- The checks up to the fill level pass (R124, R125). -/
theorem acquireTail_levelRead (hb : s.busOpen = true)
    (h : s.env.answers = .ok er.1 er.2 :: .ok lv.1 lv.2 :: rest) (her : er.2 &&& 0x13 = 0) :
    runSteps acquireTail s = (levelGate (levelRead (errorRead s er (.ok lv.1 lv.2 :: rest)) lv rest)).andThen
      (runSteps [acquire9a, acquire9b, acquire9c, acquire9d, acquire9e, acquire10]) := by
  refine (runSteps_cons_of_ok (f := acquire7) _
    ((acquire7_scripted hb h).trans (errorGate_passes her))).trans ?_
  rw [runSteps_cons, acquire8_scripted (by exact hb) (by rfl)]

theorem andThen_runSteps_nil (r : Res) : r.andThen (runSteps []) = r := by cases r <;> rfl

/-- The five reads of step 9 (R126). -/
theorem acquire9_scripted (hb : s.busOpen = true) (h : s.env.answers = .ok u0.1 u0.2 :: .ok u1.1 u1.2 ::
      .ok u2.1 u2.2 :: .ok u3.1 u3.2 :: .ok k.1 k.2 :: rest) :
    runSteps [acquire9a, acquire9b, acquire9c, acquire9d, acquire9e, acquire10] s =
      acquire10 (drained s u0 u1 u2 u3 k rest) := by
  refine (runSteps_cons_of_ok _ (rd_scripted _ _ hb h)).trans ?_
  refine (runSteps_cons_of_ok _ (rd_scripted _ _ (by exact hb) (by rfl))).trans ?_
  refine (runSteps_cons_of_ok _ (rd_scripted _ _ (by exact hb) (by rfl))).trans ?_
  refine (runSteps_cons_of_ok _ (rd_scripted _ _ (by exact hb) (by rfl))).trans ?_
  refine (runSteps_cons_of_ok _ (rd_scripted _ _ (by exact hb) (by rfl))).trans ?_
  simp [drained, setDest, andThen_runSteps_nil]

end

/-- Settles O38: no check raises, and the integrity gate lets the answer through. -/
theorem acquireResult : Obligations.AcquireResult := by
  intro s a b c d e f g i er lv u0 u1 u2 u3 k polls rest d0 d1 ds dr t0 t1 hp hb hidle hnoflag ha ht hds ht0 ht1
    hearly hrx her hlv hk
  have hscript : PollScript s [a, b, c, d, e, f, g] polls (.ok i.1 i.2 :: .ok er.1 er.2 :: .ok lv.1 lv.2 ::
      .ok u0.1 u0.2 :: .ok u1.1 u1.2 :: .ok u2.1 u2.2 :: .ok u3.1 u3.2 :: .ok k.1 k.2 :: rest) d0 d1 ds dr :=
    ⟨hb, rfl, hnoflag, ha, ht, hds, by omega⟩
  have hbody := hscript.acquireBody_received ht0 ht1 hearly hrx
  rw [acquireTail_levelRead (by exact hb) (by rfl) her, levelGate_passes (by exact hlv), Res.andThen_ok,
    acquire9_scripted (by exact hb) (by rfl), acquire10_match (by exact hk.symm)] at hbody
  refine (exec_acquire_ok hp hbody hidle).trans ?_
  simp [drained, levelRead, errorRead, received, polled, pollEvents, requestEvents, requestWrites, checksum, hk]

/-- The advances of the clock up to the last one. -/
theorem exists_concat_of_length {α : Type} {xs : List α} {n : Nat} (h : xs.length = n + 1) :
    ∃ ys y, xs = ys ++ [y] ∧ ys.length = n := by
  rcases List.eq_nil_or_concat' xs with rfl | ⟨ys, y, rfl⟩
  · cases h
  · exact ⟨ys, y, rfl, by simpa using h⟩

/-- Settles O40: of the three gates the first that fails raises, with what was read up to it. -/
theorem acquireChecksInOrder : Obligations.AcquireChecksInOrder := by
  intro s oks polls i er rest d0 ds dr hp hb hidle hlen hnoflag ha ht hds hsum hrx
  obtain ⟨ds, d1, rfl, hds'⟩ := exists_concat_of_length hds
  simp only [List.sum_append, List.sum_singleton] at hsum
  have hscript : PollScript s oks polls (.ok i.1 i.2 :: .ok er.1 er.2 :: rest) d0 d1 ds dr :=
    ⟨hb, hlen, hnoflag, ha, by simpa using ht, hds', by omega⟩
  have hbody := hscript.acquireBody_received rfl rfl (by omega) hrx
  have hcount := hscript.transactions_pollEvents (clockFloor s.env + d0)
    (clockFloor s.env + d0 + ds.sum + polls.length + d1)
  refine ⟨fun her => ?_, fun lv rest' her hrest hlv => ?_, fun lv u0 u1 u2 u3 k rest' her hrest hlv hk => ?_⟩
  · rw [acquireTail, runSteps_cons, acquire7_scripted (by exact hb) (by rfl), errorGate_raises (by exact her)] at hbody
    refine ⟨_, exec_acquire_raise hp hbody hidle, rfl, rfl, rfl, rfl, rfl, rfl, rfl, ?_, ?_⟩
    · simp [abortAcquire, errorRead, received, polled, hcount, didRead, isXfer]; omega
    · simp [abortAcquire, errorRead]
  · subst hrest
    rw [acquireTail_levelRead (by exact hb) (by rfl) her, levelGate_raises (by exact hlv)] at hbody
    refine ⟨_, exec_acquire_raise hp hbody hidle, rfl, rfl, rfl, rfl, rfl, rfl, ?_, ?_⟩
    · simp [abortAcquire, levelRead, errorRead, received, polled, hcount, didRead, isXfer]; omega
    · simp [abortAcquire, levelRead]
  · subst hrest
    rw [acquireTail_levelRead (by exact hb) (by rfl) her, levelGate_passes (by exact hlv), Res.andThen_ok,
      acquire9_scripted (by exact hb) (by rfl), acquire10_mismatch (by exact hk.symm)] at hbody
    refine ⟨_, exec_acquire_raise hp hbody hidle, rfl, rfl, rfl, rfl, rfl, ?_, ?_⟩
    · simp [abortAcquire, drained, levelRead, errorRead, received, polled, hcount, didRead, isXfer]; omega
    · simp [abortAcquire, drained, checksum]

end Sys2Proof.Machine
end

section
/-! PROOFS. The first failed transaction of `DETECT`, `ACQUIRE` and `INIT` (R118, R129, R165, R166, R168). -/

namespace Sys2Proof.Machine

open Sys2Proof.Safety

/-! ### A script up to its first failure -/

/-- In `s` the bus is open and the script answers `oks`, then fails, then goes on with `rest`; `n` counts the
transactions of the trace when `oks` has been used up. -/
structure Awaits (s : State) (oks : List (Byte × Byte)) (rest : List Answer) (n : Nat) : Prop where
  busOpen : s.busOpen = true
  answers : s.env.answers = oks.map (fun r => Answer.ok r.1 r.2) ++ .fail :: rest
  count : transactions s.trace + oks.length = n

/-- The result is the raise of a failed transaction, after `n` answered ones, in a state that satisfies `P`. -/
def Res.Breaks (n : Nat) (rest : List Answer) (P : State → Prop) (r : Res) : Prop :=
  ∃ u b0 b1, r = .raised (.transportError b0) (busFailed b0 b1 u) ∧ u.env.answers = .fail :: rest ∧
    transactions u.trace = n ∧ P u

section
variable {s : State} {oks : List (Byte × Byte)} {rest : List Answer} {n : Nat} {P : State → Prop}

theorem Res.Breaks.andThen {r : Res} (h : r.Breaks n rest P) (f : State → Res) : (r.andThen f).Breaks n rest P := by
  obtain ⟨u, b0, b1, rfl, hu⟩ := h
  exact ⟨u, b0, b1, rfl, hu⟩

/-- A write fails, or it takes the next answer (R82, R84). -/
theorem Awaits.wr {g : State → Res} (h : Awaits s oks rest n) (a : RegIx) (v : Byte) (hnil : oks = [] → P s)
    (hcons : ∀ r more, oks = r :: more → ∀ u, u = { s with
        bus := ⟨addrByte a.toByte false, v, r.1, r.2⟩
        env := { s.env with answers := more.map (fun r => Answer.ok r.1 r.2) ++ .fail :: rest }
        trace := s.trace ++ [wrote a v r.1 r.2] } → Awaits u more rest n → (g u).Breaks n rest P) :
    ((Machine.wr a.toByte v s).andThen g).Breaks n rest P := by
  obtain ⟨hb, ha, hcount⟩ := h
  cases oks with
  | nil =>
    rw [wr_fail (legalIndex_toByte a) hb (nextAnswer_scripted ha), raise_xferFailed]
    exact ⟨s, _, _, rfl, ha, hcount, hnil rfl⟩
  | cons r more =>
    rw [wr_scripted a v hb ha, Res.andThen_ok]
    refine hcons r more rfl _ rfl ⟨hb, rfl, ?_⟩
    simpa [wrote, isXfer, Nat.add_assoc, Nat.add_comm 1] using hcount

/-- A read fails, or it takes the next answer (R83, R84). -/
theorem Awaits.rd {g : State → Res} (h : Awaits s oks rest n) (a : RegIx) (dst : Dest) (hnil : oks = [] → P s)
    (hcons : ∀ r more, oks = r :: more → ∀ u, u = setDest dst r.2 { s with
        bus := ⟨addrByte a.toByte true, s.params.dummy, r.1, r.2⟩
        env := { s.env with answers := more.map (fun r => Answer.ok r.1 r.2) ++ .fail :: rest }
        trace := s.trace ++ [didRead s.params a r.1 r.2] } → Awaits u more rest n → (g u).Breaks n rest P) :
    ((Machine.rd a dst s).andThen g).Breaks n rest P := by
  obtain ⟨hb, ha, hcount⟩ := h
  cases oks with
  | nil =>
    rw [Machine.rd, rdSending_fail (legalIndex_toByte a) hb (nextAnswer_scripted ha), raise_xferFailed]
    exact ⟨s, _, _, rfl, ha, hcount, hnil rfl⟩
  | cons r more =>
    rw [rd_scripted a dst hb ha, Res.andThen_ok]
    refine hcons r more rfl _ rfl ⟨by simpa using hb, by simp, ?_⟩
    simpa [didRead, isXfer, Nat.add_assoc, Nat.add_comm 1] using hcount

theorem Awaits.delay (h : Awaits s oks rest n) (k : Nat) : Awaits (delay k s) oks rest n :=
  ⟨h.busOpen, h.answers, by simpa [isXfer] using h.count⟩

/-- What a failed transaction leaves: the rest of the script, itself as the last transaction and its raise as the
last item (R165, R166). -/
theorem busFailed_records (b0 b1 : Byte) (hanswers : s.env.answers = .fail :: rest)
    (hcount : transactions s.trace = n) : (busFailed b0 b1 s).env.answers = rest ∧
      transactions (busFailed b0 b1 s).trace = n + 1 ∧
      (busFailed b0 b1 s).trace.getLast? = some (.raised (.transportError b0)) := by
  simp [busFailed, popAnswer_scripted hanswers, isXfer, hcount]

end

/-! ### The routines (R118, R129, R168) -/

section
variable {s : State} {oks : List (Byte × Byte)} {rest : List Answer} {n : Nat}

theorem detectSteps_breaks (h : Awaits s oks rest n) (hlen : oks.length < 7) :
    (runSteps detectSteps s).Breaks n rest fun _ => True := by
  refine h.wr _ _ (fun _ => trivial) fun r1 oks1 h1 u1 _ h => ?_
  refine h.wr _ _ (fun _ => trivial) fun r2 oks2 h2 u2 _ h => ?_
  refine h.wr _ _ (fun _ => trivial) fun r3 oks3 h3 u3 _ h => ?_
  refine h.wr _ _ (fun _ => trivial) fun r4 oks4 h4 u4 _ h => ?_
  refine h.wr _ _ (fun _ => trivial) fun r5 oks5 h5 u5 _ h => ?_
  refine (h.delay tDetectSettle).rd _ _ (fun _ => trivial) fun r6 oks6 h6 u6 _ h => ?_
  refine h.wr _ _ (fun _ => trivial) fun r7 oks7 h7 u7 _ h => ?_
  simp only [h1, h2, h3, h4, h5, h6, h7, List.length_cons] at hlen
  omega

/-- In the seven writes `acq_state` is `IDLE` and the answer registers are untouched (R119 to R121). -/
theorem requestSteps_breaks (h : Awaits s oks rest n) (hlen : oks.length < 7) :
    (runSteps requestSteps s).Breaks n rest fun u => u.acqState = .idle ∧ u.answer = s.answer := by
  have h0 : Awaits { s with acqState := .idle, samples := { s.samples with acqOk := false } } oks rest n :=
    ⟨h.busOpen, h.answers, h.count⟩
  rw [requestSteps, runSteps_cons, acquire0, Res.andThen_ok]
  refine h0.wr _ _ (fun _ => ⟨rfl, rfl⟩) ?_
  rintro r1 oks rfl u rfl h
  refine h.wr _ _ (fun _ => ⟨rfl, rfl⟩) ?_
  rintro r2 oks rfl u rfl h
  refine h.wr _ _ (fun _ => ⟨rfl, rfl⟩) ?_
  rintro r3 oks rfl u rfl h
  refine h.wr _ _ (fun _ => ⟨rfl, rfl⟩) ?_
  rintro r4 oks rfl u rfl h
  refine h.wr _ _ (fun _ => ⟨rfl, rfl⟩) ?_
  rintro r5 oks rfl u rfl h
  refine h.wr _ _ (fun _ => ⟨rfl, rfl⟩) ?_
  rintro r6 oks rfl u rfl h
  rw [runSteps_cons, acquire5b, Res.andThen_assoc]
  refine h.wr _ _ (fun _ => ⟨rfl, rfl⟩) ?_
  rintro r7 oks rfl u rfl h
  simp only [List.length_cons] at hlen
  omega

/-- What the reads after the poll loop leave alone when one of them fails, `tail` being the answered ones: each
register is filled by its own read only (R124 to R126). -/
structure TailKept (a : AnswerRegs) (tail : List (Byte × Byte)) (u : State) : Prop where
  acqState : u.acqState = .validating
  chkRx : u.answer.chkRx = a.chkRx
  chkCalc : u.answer.chkCalc = a.chkCalc
  b3 : tail.length ≤ 5 → u.answer.uid.b3 = a.uid.b3
  answer : tail.length ≤ 2 → u.answer = a

theorem acquireTail_breaks (h : Awaits s oks rest n) (hlen : oks.length < 7)
    (her : ∀ er, oks[0]? = some er → er.2 &&& 0x13 = 0) (hlv : ∀ lv, oks[1]? = some lv → 5 ≤ lv.2.toNat) :
    (runSteps acquireTail s).Breaks n rest (TailKept s.answer oks) := by
  have h0 : Awaits { s with acqState := .validating } oks rest n := ⟨h.busOpen, h.answers, h.count⟩
  rw [acquireTail, runSteps_cons, acquire7, Res.andThen_assoc]
  refine h0.rd _ _ (fun _ => ⟨rfl, rfl, rfl, fun _ => rfl, fun _ => rfl⟩) ?_
  rintro er oks rfl u rfl h
  rw [errorGate_passes (by exact her er rfl), Res.andThen_ok, runSteps_cons, acquire8, Res.andThen_assoc]
  refine h.rd _ _ (fun _ => ⟨rfl, rfl, rfl, fun _ => rfl, fun _ => rfl⟩) ?_
  rintro lv oks rfl u rfl h
  rw [levelGate_passes (by exact hlv lv rfl), Res.andThen_ok]
  refine h.rd _ _ (fun _ => ⟨rfl, rfl, rfl, fun _ => rfl, fun _ => rfl⟩) ?_
  rintro r0 oks rfl u rfl h
  refine h.rd _ _ (fun _ => ⟨rfl, rfl, rfl, fun _ => rfl, fun hle => absurd hle (by simp)⟩) ?_
  rintro r1 oks rfl u rfl h
  refine h.rd _ _ (fun _ => ⟨rfl, rfl, rfl, fun _ => rfl, fun hle => absurd hle (by simp)⟩) ?_
  rintro r2 oks rfl u rfl h
  refine h.rd _ _ (fun _ => ⟨rfl, rfl, rfl, fun _ => rfl, fun hle => absurd hle (by simp)⟩) ?_
  rintro r3 oks rfl u rfl h
  refine h.rd _ _ (fun _ => ⟨rfl, rfl, rfl, fun hle => absurd hle (by simp), fun hle => absurd hle (by simp)⟩) ?_
  rintro k oks rfl u rfl h
  simp only [List.length_cons] at hlen
  omega

/-- The configuration writes: the failure is in one of them or after them (R97). -/
theorem Awaits.configWriteAll {ws : List (RegIx × Byte)} {g : State → Res} (h : Awaits s oks rest n)
    (hnext : ∀ t more, oks.length = ws.length + more.length → Awaits t more rest n →
      (g t).Breaks n rest fun _ => True) :
    ((Machine.configWriteAll ws s).andThen g).Breaks n rest fun _ => True := by
  induction ws generalizing s oks with
  | nil => exact hnext s oks (Nat.zero_add _).symm h
  | cons w ws ih =>
    rw [Machine.configWriteAll, Res.andThen_assoc]
    refine h.wr _ _ (fun _ => trivial) fun r more hmore u _ hu => ih hu fun t rest' hlen ht => hnext t rest' ?_ ht
    rw [hmore, List.length_cons, hlen, List.length_cons]
    omega

theorem init3c_passes (h : s.samples.probeS = 0x8D) : init3c s = .ok s :=
  if_neg fun hwrong => (of_decide_eq_true hwrong : s.samples.probeS ≠ 0x8D) h

theorem init5b_passes (h : s.samples.verS ≠ 0x00 ∧ s.samples.verS ≠ 0xFF) : init5b s = .ok s :=
  if_neg fun habsent => (versionAbsent_iff.1 habsent).elim h.1 h.2

/-- `INIT` with the bus open, up to the failure of one of its transactions (R93 to R98, R168). -/
theorem initBusSteps_breaks (h : Awaits s oks rest n) (hlen : oks.length < 6 + s.params.chip.configWrites.length)
    (hprobe : ∀ r, oks[1]? = some r → r.2 = 0x8D) (hver : ∀ r, oks[3]? = some r → r.2 ≠ 0x00 ∧ r.2 ≠ 0xFF) :
    (runSteps initBusSteps s).Breaks n rest fun _ => True := by
  refine h.wr _ _ (fun _ => trivial) ?_
  rintro r1 oks rfl u rfl h
  refine h.rd _ _ (fun _ => trivial) ?_
  rintro r2 oks rfl u rfl h
  rw [runSteps_cons, init3c_passes (by exact hprobe r2 rfl), Res.andThen_ok]
  refine h.wr _ _ (fun _ => trivial) ?_
  rintro r3 oks rfl u rfl h
  refine (h.delay tSoftReset).rd _ _ (fun _ => trivial) ?_
  rintro r4 cfg rfl u rfl h
  rw [runSteps_cons, init5b_passes (by exact hver r4 rfl), Res.andThen_ok]
  refine h.configWriteAll fun t more hmore ht => ?_
  rw [runSteps_cons, init6b, setBits, Res.andThen_assoc]
  refine ht.rd _ _ (fun _ => trivial) ?_
  rintro r5 oks rfl u rfl h
  refine h.wr _ _ (fun _ => trivial) ?_
  rintro r6 oks rfl u rfl h
  have hsplit : cfg.length = s.params.chip.configWrites.length + (r5 :: r6 :: oks).length := hmore
  simp only [List.length_cons] at hlen hsplit
  omega

end

/-! ### The first failed transaction -/

/-- A poll that fails leaves all that the loop has written so far (R122). -/
theorem acquire6Sample_breaks {s : State} {rest : List Answer} {n : Nat} {P : State → Prop}
    (h : Awaits s [] rest n) (hP : P s) : (acquire6Sample s).Breaks n rest P :=
  h.rd _ _ (fun _ => hP) fun _ _ hcons => by cases hcons

section
variable {s : State} {oks polls : List (Byte × Byte)} {rest : List Answer} {n : Nat}

/-- `ACQUIRE` up to a failure in its seven writes (R119 to R121). -/
theorem acquireBody_breaks_writing (h : Awaits s oks rest n) (hlen : oks.length < 7) :
    (acquireBody s).Breaks n rest fun u => u.acqState = .idle ∧ u.answer = s.answer := by
  rw [acquireBody_eq_request]
  exact (requestSteps_breaks h hlen).andThen _

section
variable {d0 d1 : Nat} {ds dr : List Nat}

/-- `ACQUIRE` up to a failure at a poll (R122). -/
theorem PollScript.breaks_polling (h : PollScript s oks polls (.fail :: rest) d0 d1 ds dr)
    (hearly : ds.sum + d1 + polls.length < 100) :
    (acquireBody s).Breaks (transactions s.trace + 7 + polls.length) rest fun u =>
      u.acqState = .sentRequest ∧ u.answer = s.answer := by
  obtain ⟨m, bus, irq, hbody⟩ := h.acquireBody_test rfl rfl
  rw [hbody, if_neg (by omega), Res.andThen_ok]
  refine ((acquire6Sample_breaks ⟨by exact h.busOpen, by rfl, ?_⟩ (by exact ⟨rfl, rfl⟩)).andThen _).andThen _
  simp [polled, h.transactions_pollEvents, Nat.add_assoc]

/-- `ACQUIRE` up to a failure in the reads after the poll loop (R124 to R126). -/
theorem PollScript.breaks_reading {i : Byte × Byte} {tail : List (Byte × Byte)}
    (h : PollScript s oks polls (.ok i.1 i.2 :: (tail.map (fun r => Answer.ok r.1 r.2) ++ .fail :: rest)) d0 d1 ds dr)
    (hearly : ds.sum + d1 + polls.length < 100) (hrx : i.2 &&& s.params.chip.irqRx ≠ 0) (hlen : tail.length < 7)
    (her : ∀ er, tail[0]? = some er → er.2 &&& 0x13 = 0) (hlv : ∀ lv, tail[1]? = some lv → 5 ≤ lv.2.toNat) :
    (acquireBody s).Breaks (transactions s.trace + 7 + polls.length + 1 + tail.length) rest
      (TailKept s.answer tail) := by
  rw [h.acquireBody_received rfl rfl (by omega) hrx]
  refine acquireTail_breaks (s := received s i _ _ _ _ _) ⟨by exact h.busOpen, by rfl, ?_⟩ hlen her hlv
  simp [received, polled, h.transactions_pollEvents, didRead, isXfer, Nat.add_assoc]

end
end

/-- `ACQUIRE` after a failed transaction: `acq_ok` 0 and, whatever `ACQ_IDLE_AFTER` says, no idle write (R129;
log 8). -/
theorem exec_acquire_breaks {s : State} {rest : List Answer} {n : Nat} {P : State → Prop} (hp : s.phase ≠ .halted)
    (h : (acquireBody s).Breaks n rest P) : ∃ t b, exec .acquire s = .next (abortAcquire t) ∧
      t.lastError = .transportError ∧ t.env.answers = rest ∧ transactions t.trace = n + 1 ∧
      t.trace.getLast? = some (.raised (.transportError b)) ∧ ∃ u, P u ∧ t.acqState = u.acqState ∧
        t.answer = u.answer := by
  obtain ⟨u, b0, b1, hrun, hanswers, hcount, hu⟩ := h
  obtain ⟨hrest, htrans, hlast⟩ := busFailed_records b0 b1 hanswers hcount
  exact ⟨_, b0, exec_acquire_raised hp hrun (Bool.and_false _), rfl, hrest, htrans, hlast, u, hu, rfl, rfl⟩

/-- `INIT` after a failed transaction, with no attempt left: the block halts with the outputs set (R168). -/
theorem exec_init_breaks {s : State} {rest : List Answer} {n : Nat} (hp : s.phase = .bringup)
    (hn : s.retriesLeft = 0) (h : (runSteps initBusSteps (initOpened s)).Breaks n rest fun _ => True) :
    ∃ t b, exec .init s = .next (halt (.transportError b) t) ∧ CardKept (initOpened s) t ∧
      t.lastError = .transportError ∧ t.env.answers = rest ∧ transactions t.trace = n + 1 ∧
      t.trace.getLast? = some (.raised (.transportError b)) := by
  obtain ⟨u, b0, b1, hrun, hanswers, hcount, -⟩ := h
  obtain ⟨hrest, htrans, hlast⟩ := busFailed_records b0 b1 hanswers hcount
  have hkept := cardKept_initBusSteps (s := initOpened s) rfl
  rw [hrun] at hkept
  have hsteps : runSteps initSteps s = .raised (.transportError b0) (busFailed b0 b1 u) := by
    rw [runSteps_initSteps, hrun, Res.andThen_raised]
  exact ⟨_, b0, exec_init_halts hp hn hsteps, hkept.1, rfl, hrest, htrans, hlast⟩

/-- Settles O36: each routine up to its first failed transaction, and what it makes of that raise. -/
theorem routinesStopAtABusFailure : Obligations.RoutinesStopAtABusFailure := by
  refine ⟨fun s oks rest hp hb hlen ha => ?_, fun s oks rest hp hb hlen ha => ?_,
    fun s oks polls tail i rest d0 ds dr hp hb hlen hnoflag ht hds hsum => ?_,
    fun s oks rest hp hn hlen hprobe hver ha => ?_⟩
  · obtain ⟨u, b0, b1, hrun, hanswers, hcount, -⟩ := detectSteps_breaks ⟨hb, ha, rfl⟩ hlen
    obtain ⟨hrest, htrans, hlast⟩ := busFailed_records b0 b1 hanswers hcount
    exact ⟨_, b0, perform_ok hp (detectRun_of_raised hrun), rfl, rfl, hrest, htrans, hlast⟩
  · obtain ⟨t, b, hexec, herr, hrest, htrans, hlast, u, ⟨hidle, hanswer⟩, hstate, hkept⟩ :=
      exec_acquire_breaks hp (acquireBody_breaks_writing ⟨hb, ha, rfl⟩ hlen)
    exact ⟨_, b, hexec, rfl, hstate.trans hidle, herr, hkept.trans hanswer, hrest, htrans, hlast⟩
  · obtain ⟨ds, d1, rfl, hlaps⟩ := exists_concat_of_length hds
    simp only [List.sum_append, List.sum_singleton] at hsum
    have hscript {more : List Answer} (ha : s.env.answers = oks.map (fun r => Answer.ok r.1 r.2) ++
        (polls.map (fun r => Answer.ok r.1 r.2) ++ more)) : PollScript s oks polls more d0 d1 ds dr :=
      ⟨hb, hlen, hnoflag, ha, by simpa using ht, hlaps, by omega⟩
    refine ⟨fun ha => ?_, fun hrx htail her hlv ha => ?_⟩
    · obtain ⟨t, b, hexec, herr, hrest, htrans, hlast, u, ⟨hsent, hanswer⟩, hstate, hkept⟩ :=
        exec_acquire_breaks hp ((hscript ha).breaks_polling hsum)
      exact ⟨_, b, hexec, rfl, hstate.trans hsent, herr, hkept.trans hanswer, hrest, htrans, hlast⟩
    · obtain ⟨t, b, hexec, herr, hrest, htrans, hlast, u, hu, hstate, hkept⟩ :=
        exec_acquire_breaks hp ((hscript ha).breaks_reading hsum hrx htail her hlv)
      exact ⟨_, b, hexec, rfl, hstate.trans hu.acqState, herr, (congrArg AnswerRegs.chkRx hkept).trans hu.chkRx,
        (congrArg AnswerRegs.chkCalc hkept).trans hu.chkCalc,
        fun hle => (congrArg (fun a : AnswerRegs => a.uid.b3) hkept).trans (hu.b3 hle),
        fun hle => hkept.trans (hu.answer hle), hrest, htrans, hlast⟩
  · obtain ⟨t, b, hexec, hkept, herr, hrest, htrans, hlast⟩ := exec_init_breaks hp hn
      (initBusSteps_breaks (s := initOpened s) (oks := oks) (rest := rest) ⟨rfl, ha, rfl⟩ hlen hprobe hver)
    have hcount : transactions (initOpened s).trace = transactions s.trace := by
      simp [initOpened, isXfer]
    rw [hcount] at htrans
    exact ⟨_, b, hexec, rfl, rfl, rfl, herr, hkept.rstLine, hkept.busOpen, hkept.pres, hrest, htrans, hlast⟩

end Sys2Proof.Machine
end

section
/-! PROOFS. The statements of 43_presence_debounce.md about a cycle of `POLL`: without a rising edge (R152, R153), with
one whose acquisition fails (R143, R144, R151), and that every cycle completes (R140, R169). -/

namespace Sys2Proof.Machine

open Sys2Proof.Safety

/-! ### The cycle from its dispatch (R140, R142) -/

/-- A cycle is `DETECT`, the way taken on the edge, and the delay. -/
theorem exec_poll_of_edge {s d t : State} (hp : s.phase = .polling) (hd : exec .detect s = .next d)
    (hedge : pollEdge d = .ok t) : exec .poll s = .next { poll8 t with link := none } :=
  perform_ok (by simp [hp]) (by simp [pollRun, hp, (detectRun_of_exec hd).1, hedge])

/-- Without a rising edge the dispatch writes at most `presence`, and `ABSENT` over `ABSENT` is no change
(R152, R153, R157). -/
theorem pollEdge_of_not_rise {d : State} (h : d.samples.detS ≠ .present ∨ d.pres.presence = .present) :
    pollEdge d = .ok { d with
      pres := if d.samples.detS = .absent then { d.pres with presence := .absent } else d.pres } := by
  unfold pollEdge
  split
  next hdet => simp [hdet]
  next hdet _ => simp [hdet, pollFall]
  next hdet habs => rw [if_pos hdet, ← habs]
  next hdet _ => simp [hdet]
  next hdet habs => simp [hdet, habs] at h

/-- Settles O47: the cycle is `DETECT`, the dispatch without a rising edge, and the delay. -/
theorem pollWithoutRisingEdge : Obligations.PollWithoutRisingEdge := by
  intro s d hp hd h
  rw [← (detectRun_of_exec hd).2.pres] at h ⊢
  exact exec_poll_of_edge hp hd (pollEdge_of_not_rise h)

/-- Settles O48: with `acq_ok` 0 nothing comes between `ACQUIRE` and step 7. -/
theorem pollFailedAcquisition : Obligations.PollFailedAcquisition := by
  intro s d a hp hd hdet habs ha hfailed
  have hq := (detectRun_of_exec hd).2.trans (acquireRun_of_exec ha).2
  rw [exec_poll_rise hp hd hdet habs ha, if_neg (by simp [hfailed]), ← hq.pres]
  rfl

/-! ### Every cycle completes (R140, R144, R154, R169) -/

/-- What comes between `ACQUIRE` and step 7 writes `now_s`, the Presence State, the environment and the trace
only (R146 to R150). -/
theorem report_frame (a : State) : ∃ nowS pres env tr, (if a.samples.acqOk then pollReport a else a) = { a with
    samples := { a.samples with nowS := nowS }
    pres := pres
    env := env
    trace := tr } := by
  split
  · by_cases hdue : emitDue (poll4 a) = true
    · exact ⟨_, _, _, _, pollReport_of_due hdue⟩
    · exact ⟨_, _, _, _, pollReport_of_not_due hdue⟩
  · exact ⟨_, _, _, _, rfl⟩

/-- Settles O46: `DETECT` and, on a rising edge, `ACQUIRE` complete and keep the context; step 7 then writes
`PRESENT`, and without a rising edge `presence` follows the detection. -/
theorem pollCompletes : Obligations.PollCompletes := by
  intro s hp hb
  obtain ⟨d, hrun, hq⟩ := detectRun_completes hb
  have hd : exec .detect s = .next d := perform_ok (by simp [hp]) hrun
  by_cases hrise : d.samples.detS = .present ∧ s.pres.presence = .absent
  · obtain ⟨hdet, habs⟩ := hrise
    obtain ⟨a, hacq, hend⟩ := acquireRun_ended (hq.busOpen.trans hb)
    have ha : exec .acquire d = .next a := perform_ok (by simp [hq.phase, hp]) hacq
    have hqa := hq.trans (acquireRun_of_exec ha).2
    have hdetS : a.samples.detS = .present := (congrArg (·.samples.detS) hend.frame :).trans hdet
    obtain ⟨nowS, pres, env, tr, hreport⟩ := report_frame a
    refine ⟨_, exec_poll_rise hp hd hdet habs ha, ?_⟩
    rw [hreport]
    exact ⟨hqa.phase.trans hp, rfl, rfl, hqa.busOpen.trans hb, hqa.rstLine, hqa.haltCause, hqa.params,
      List.getLast?_concat, by simp [poll7, poll8, hdetS]⟩
  · have hstay : d.samples.detS ≠ .present ∨ s.pres.presence = .present := by
      cases hpres : s.pres.presence with
      | present => exact .inr rfl
      | absent => exact .inl fun hdet => hrise ⟨hdet, hpres⟩
    refine ⟨_, pollWithoutRisingEdge s d hp hd hstay, hq.phase.trans hp, rfl, rfl, hq.busOpen.trans hb,
      hq.rstLine, hq.haltCause, hq.params, List.getLast?_concat, ?_⟩
    cases hdet : d.samples.detS with
    | absent => simp
    | present => simpa [hdet] using hstay
    | busFault => simp

end Sys2Proof.Machine
end

section
/-! PROOFS. The statements of 60_exceptions.md: what a failed transfer leads to (R166, R168, R118, R129), `HALTED`
(R168, R204), and the clock (R175, R176). -/

namespace Sys2Proof.Machine

open Sys2Proof.Safety

/-! ### The end of a failed transfer's routine (R166, R168, R118, R129) -/

/-- `WR`, `RD` and `SETBITS` end with their first transaction when it fails, and take its raise. -/
theorem exec_of_failed_transfer {s : State} {a v : Byte} {i : Instr} (hp : s.phase ≠ .halted)
    (hb : s.busOpen = true) (ha : legalIndex a = true) (hn : nextAnswer s.env = .fail)
    (hi : i ∈ [Instr.wr a v, .rd a v, .setbits a v]) :
    ∃ b0 b1, exec i s = .next (takeRaise (.transportError b0) (busFailed b0 b1 s)) := by
  simp only [List.mem_cons, List.not_mem_nil, or_false] at hi
  rcases hi with rfl | rfl | rfl
  · exact ⟨_, _, perform_xferFailed hp (wr_fail ha hb hn)⟩
  · exact ⟨_, _, perform_xferFailed hp (rdSending_fail ha hb hn)⟩
  · exact ⟨_, _, perform_xferFailed hp (setBits_of_failed_read v ha hb hn)⟩

/-- Settles O16: the raise is taken in the routine that `seq` names, and no idle write follows a
`TransportError`. -/
theorem failedTransferEndsItsRoutine : Obligations.FailedTransferEndsItsRoutine := by
  intro s a v hp hb ha hn i hi
  obtain ⟨b0, b1, h⟩ := exec_of_failed_transfer hp hb (legalIndex_of_le ha) hn hi
  refine ⟨fun hseq h0 => ⟨_, h, ?_⟩, fun back hseq hl => ⟨_, h, ?_⟩, fun back hseq hl => ⟨_, h, ?_⟩⟩
  · rw [takeRaise_init (by exact hseq) (by rfl), abortInit_halts (by exact h0)]
    exact ⟨rfl, rfl, rfl, rfl, rfl, hb, rfl, rfl⟩
  · rw [takeRaise_detect (by exact hseq) (by exact hl) (by rfl)]
    exact ⟨rfl, rfl, rfl, rfl, rfl, rfl⟩
  · rw [takeRaise_acquire (by exact hseq) (by exact hl) (by exact Bool.and_false _)]
    exact ⟨rfl, rfl, rfl, rfl, rfl, rfl, rfl⟩

/-! ### `HALTED` (R168, R204) -/

/-- Every operation begins with the test of the mode. -/
theorem exec_halted (i : Instr) {s : State} (hp : s.phase = .halted) : exec i s = .fault .halted := by
  cases i <;> exact if_pos hp

/-- Settles O50: the step and every operation begin with the test of the mode. -/
theorem haltedPerformsNothing : Obligations.HaltedPerformsNothing := fun _ hp =>
  ⟨if_pos hp, fun i => exec_halted i hp⟩

/-- An operation that answers is performed outside `HALTED` (R168). -/
theorem phase_of_exec {i : Instr} {s t : State} (h : exec i s = .next t) : s.phase ≠ .halted := by
  intro hp
  rw [exec_halted i hp] at h
  cases h

/-! ### `DELAY` and `NOW` as single operations (R175, R176, R14) -/

/-- Settles O19: outside `HALTED` the operation is performed, and it is the wait and its trace item. -/
theorem delayResult : Obligations.DelayResult := fun _ n hp =>
  perform_running (fun s => .ok (delay n s)) hp

/-- At any position but these two a clock sample names no register (R14; log 14). -/
theorem timeDest_unlisted {p : Pos} (hacq : p ≠ ⟨.acquire, 6, 0⟩) (hpoll : p ≠ ⟨.poll, 4, 0⟩) :
    timeDest p = .none := by
  obtain ⟨r, n, k⟩ := p
  simp only [timeDest]
  split <;> simp_all

/-- The clock sample of `NOW` in full, at each position (R175, R14). -/
theorem now_timeDest (s : State) : now (timeDest s.seq) s = { s with
    samples :=
      if s.seq = ⟨.acquire, 6, 0⟩ then { s.samples with acqT0 := nextNow s.env }
      else if s.seq = ⟨.poll, 4, 0⟩ then { s.samples with nowS := stamp s.params (nextNow s.env) }
      else s.samples
    env := popNow s.env
    trace := s.trace ++ [.clock (nextNow s.env)] } := by
  split
  next hacq =>
    have hdest : timeDest s.seq = .acqT0 := by rw [hacq]; rfl
    rw [hdest]; rfl
  next hacq =>
    split
    next hpoll =>
      have hdest : timeDest s.seq = .nowS := by rw [hpoll]; rfl
      rw [hdest]; rfl
    next hpoll => rw [timeDest_unlisted hacq hpoll]; rfl

/-- A `Now` does not show less than the clock's bound (R175). -/
theorem le_nextNow {e : Env} {c : Time} (h : e.clock = some c) : c ≤ nextNow e := by
  simpa [clockFloor, h] using clockFloor_le_nextNow e

/-- Settles O20: the sample goes to the register of its position, and becomes the clock's bound. -/
theorem nowResult : Obligations.NowResult := fun s hp =>
  ⟨(perform_running (fun s => .ok (now (timeDest s.seq) s)) hp).trans (congrArg _ (now_timeDest s)),
    fun _ => le_nextNow, popNow_clock s.env⟩

/-! ### What keeps the clock's bound (R175) -/

/-- A piece from `s` that keeps the clock's bound, however it ends. -/
def Res.KeepsClock (s : State) (r : Res) : Prop := r.Only (fun _ => true) fun t => ClockKept s.env t.env

theorem Res.Only.keepsClock {K : Err → Bool} {P : State → Prop} {s : State} {r : Res} (h : r.Only K P)
    (hP : ∀ t, P t → ClockKept s.env t.env) : r.KeepsClock s := h.mono (fun _ _ => rfl) hP

theorem Res.KeepsClock.andThen {s : State} {r : Res} {f : State → Res} (h : r.KeepsClock s)
    (hf : ∀ t, (f t).KeepsClock t) : (r.andThen f).KeepsClock s := by
  cases r with
  | ok t => exact (hf t).imp fun _ hu => ClockKept.trans h hu
  | raised e t => exact h
  | refused q => trivial

theorem keepsClock_wr (a v : Byte) (s : State) : (wr a v s).KeepsClock s :=
  (only_wr a v s).keepsClock fun _ ht => ht.clock

theorem keepsClock_rdSending (d a : Byte) (dst : Dest) (s : State) : (rdSending d a dst s).KeepsClock s := by
  unfold rdSending
  split
  · exact ((only_xfer _ d s).keepsClock fun _ ht => ht.clock).andThen fun t => (quiet_setDest dst _ t).clock
  · trivial

theorem keepsClock_setBits (a m : Byte) (s : State) : (setBits a m s).KeepsClock s :=
  (keepsClock_rdSending _ a _ s).andThen fun t => keepsClock_wr a _ t

theorem keepsClock_reqa (s : State) : (runSteps [detect2, detect3] s).KeepsClock s :=
  (keepsClock_wr _ _ s).andThen fun t => (keepsClock_wr _ _ t).andThen fun u => ClockKept.refl u.env

theorem keepsClock_anticollCl1 (s : State) : (runSteps [acquire3, acquire4a, acquire4b] s).KeepsClock s :=
  (keepsClock_wr _ _ s).andThen fun t => (keepsClock_wr _ _ t).andThen fun u =>
    (keepsClock_wr _ _ u).andThen fun v => ClockKept.refl v.env

theorem keepsClock_uidAnswer (u0 u1 u2 u3 c : Byte) (s : State) :
    (acquire10 (loadAnswer u0 u1 u2 u3 c s)).KeepsClock s :=
  (does_acquire10 (loadAnswer u0 u1 u2 u3 c s)).only.keepsClock fun _ ht => ht.clock

/-- A routine that is refused with the bus closed and completes quietly with it open. -/
theorem keepsClock_routine {f : State → Res} {s : State} (hc : s.busOpen = false → f s = .refused .busNotOpen)
    (ho : s.busOpen = true → ∃ t, f s = .ok t ∧ Quiet s t) : (f s).KeepsClock s := by
  cases hb : s.busOpen with
  | false => rw [hc hb]; trivial
  | true =>
    obtain ⟨t, ht, hq⟩ := ho hb
    rw [ht]
    exact hq.clock

theorem keepsClock_detectRun (s : State) : (detectRun s).KeepsClock s :=
  keepsClock_routine detectRun_closed detectRun_completes

theorem keepsClock_acquireRun (s : State) : (acquireRun s).KeepsClock s :=
  keepsClock_routine acquireRun_closed acquireRun_completes

theorem clockKept_pollReport (s : State) : ClockKept s.env (pollReport s).env := by
  by_cases hdue : emitDue (poll4 s) = true
  · rw [pollReport_of_due hdue]
    exact clockKept_popNow s.env
  · rw [pollReport_of_not_due hdue]
    exact clockKept_popNow s.env

theorem keepsClock_pollRise (s : State) : (pollRise s).KeepsClock s :=
  (keepsClock_acquireRun s).andThen fun t => by
    split
    · exact clockKept_pollReport t
    · exact ClockKept.refl t.env

theorem keepsClock_pollEdge (s : State) : (pollEdge s).KeepsClock s := by
  unfold pollEdge
  split
  · exact ClockKept.refl s.env
  · exact ClockKept.refl s.env
  · exact ClockKept.refl s.env
  · exact ClockKept.refl s.env
  · exact keepsClock_pollRise s

theorem keepsClock_pollRun (s : State) : (pollRun s).KeepsClock s := by
  unfold pollRun
  split
  · exact (keepsClock_detectRun s).andThen fun t => (keepsClock_pollEdge t).andThen fun u =>
      clockKept_wait tPoll u.env
  · trivial

theorem clockKept_initOpened (s : State) : ClockKept s.env (initOpened s).env :=
  ClockKept.trans (clockKept_wait tRstLow s.env) (clockKept_wait tRstSettle _)

theorem keepsClock_initAttempt (s : State) : (runSteps initSteps s).KeepsClock s := by
  rw [runSteps_initSteps]
  exact ((only_initBusSteps (initOpened s)).keepsClock fun _ ht =>
    ClockKept.trans (clockKept_initOpened s) ht.clock).andThen fun t => ClockKept.refl t.env

theorem clockKept_abortInit (e : Err) (s : State) : ClockKept s.env (abortInit e s).env := by
  unfold abortInit
  split
  · exact ClockKept.refl s.env
  · exact (kept_restartInit s).clock

theorem keepsClock_initAttempts (n : Nat) (s : State) : (initAttempts n s).KeepsClock s := by
  induction n generalizing s with
  | zero =>
    have hattempt := keepsClock_initAttempt s
    unfold initAttempts
    split
    next e t hr => rw [hr] at hattempt; exact ClockKept.trans hattempt.1 (clockKept_abortInit e t)
    next => exact hattempt
  | succ n ih =>
    have hattempt := keepsClock_initAttempt s
    unfold initAttempts
    split
    next e t hr =>
      rw [hr] at hattempt
      exact (ih _).imp fun _ hu => ClockKept.trans (ClockKept.trans hattempt.1 (clockKept_abortInit e t)) hu
    next => exact hattempt

theorem keepsClock_initRun (s : State) : (initRun s).KeepsClock s := by
  unfold initRun
  split
  · exact keepsClock_initAttempts _ s
  · trivial

/-- None of the effects of a step lowers the bound. -/
theorem StepEffect.clockKept {s t : State} (h : StepEffect s t) : ClockKept s.env t.env := by
  cases h with
  | kept hk => exact hk.clock
  | halted e hu hr h0 he => exact hu.clock
  | line | opened | up | fell | emitted | rose => exact ClockKept.refl s.env

/-- An operation made of a piece that keeps the bound: what it answers is where the piece went on, or what its
raise led to. -/
theorem Res.KeepsClock.perform {f : State → Res} {s t : State} (hf : (f s).KeepsClock s)
    (h : perform f s = .next t) : ClockKept s.env t.env := by
  have hp : s.phase ≠ .halted := fun hp => by cases (perform_halted f hp).symm.trans h
  rw [perform_running f hp] at h
  rcases outcome_eq_next hf h with ⟨u, hu, rfl⟩ | ⟨e, u, hu, -, he, rfl⟩
  · exact hu
  · exact ClockKept.trans hu (takeRaise_effect (Quiet.refl u) he).clockKept

/-- An update of the state that keeps the bound, as an operation. -/
theorem clockKept_of_update {g : State → State} {s t : State} (hg : ClockKept s.env (g s).env)
    (h : perform (fun s => .ok (g s)) s = .next t) : ClockKept s.env t.env :=
  Res.KeepsClock.perform (f := fun s => .ok (g s)) hg h

theorem clockKept_of_exec {i : Instr} {s t : State} (h : exec i s = .next t) : ClockKept s.env t.env := by
  cases i with
  | wr a v => exact (keepsClock_wr a v s).perform h
  | rd a d => exact (keepsClock_rdSending d a _ s).perform h
  | setbits a m => exact (keepsClock_setBits a m s).perform h
  | clrirq => exact (keepsClock_wr _ _ s).perform h
  | flush => exact (keepsClock_wr _ _ s).perform h
  | cmd c => exact (keepsClock_wr _ c s).perform h
  | push v => exact (keepsClock_wr _ v s).perform h
  | pop => exact (keepsClock_rdSending _ _ _ s).perform h
  | reqa => exact (keepsClock_reqa s).perform h
  | anticollCl1 => exact (keepsClock_anticollCl1 s).perform h
  | uidAnswer u0 u1 u2 u3 c =>
    exact Res.KeepsClock.perform (f := fun s => acquire10 (loadAnswer u0 u1 u2 u3 c s))
      (keepsClock_uidAnswer u0 u1 u2 u3 c s) h
  | delay n => exact clockKept_of_update (clockKept_wait n s.env) h
  | now => exact clockKept_of_update (quiet_now _ s).clock h
  | rstline l => exact clockKept_of_update (g := rstLine l) (ClockKept.refl s.env) h
  | busopen => exact clockKept_of_update (g := busOpen) (ClockKept.refl s.env) h
  | emit => exact clockKept_of_update (g := emit) (ClockKept.refl s.env) h
  | init => exact (keepsClock_initRun s).perform h
  | poll => exact (keepsClock_pollRun s).perform h
  | detect => exact (keepsClock_detectRun s).perform h
  | acquire => exact (keepsClock_acquireRun s).perform h

theorem clockKept_of_step {s t : State} (h : step s = .next t) : ClockKept s.env t.env := by
  cases hops : s.ops with
  | nil => exact (stepEffect_of_step hops h).clockKept
  | cons op rest =>
    rw [step_eq_placedStep (phase_of_step h) hops] at h
    unfold placedStep at h
    split at h
    · exact clockKept_of_exec (s := { s with ops := rest }) h
    · cases h

theorem clockKept_of_run {k : Nat} {s t : State} (h : Host.Core.run core k s = .next t) :
    ClockKept s.env t.env := by
  induction k generalizing s with
  | zero => cases h; exact ClockKept.refl _
  | succ k ih =>
    simp only [Host.Core.run] at h
    split at h
    next u hu => exact ClockKept.trans (clockKept_of_step hu) (ih h)
    · cases h
    · cases h

theorem clockKept_of_performAll {is : List Instr} {s t : State} (h : performAll is s = .next t) :
    ClockKept s.env t.env := by
  induction is generalizing s with
  | nil => cases h; exact ClockKept.refl _
  | cons i is ih =>
    simp only [performAll] at h
    split at h
    next u hu => exact ClockKept.trans (clockKept_of_exec hu) (ih h)
    · cases h
    · cases h

/-! ### The bound after a `NOW` and after a `DELAY` (R175, R176) -/

/-- A `NOW` makes the value that it returns the clock's bound. -/
theorem clock_of_exec_now {s t : State} (h : exec .now s = .next t) : t.env.clock = some (nextNow s.env) := by
  obtain ⟨hexec, -, hclock⟩ := nowResult s (phase_of_exec h)
  cases hexec.symm.trans h
  exact hclock

/-- A `DELAY` raises the clock's bound by its length. -/
theorem clock_of_exec_delay {n : Nat} {s t : State} (h : exec (.delay n) s = .next t) :
    t.env.clock = s.env.clock.map (· + n) := by
  cases (delayResult s n (phase_of_exec h)).symm.trans h
  rfl

/-- Settles O21: the first `NOW` sets the bound, no operation between loses or lowers it, a `DELAY` raises it, and
the second `NOW` does not show less. -/
theorem clockLaws : Obligations.ClockLaws := by
  refine ⟨fun _ _ _ => clockKept_of_exec, fun _ _ _ => clockKept_of_run, fun is s s1 s2 hnow his => ?_,
    fun n is js s s1 s2 s3 s4 hnow his hdelay hjs => ?_⟩
  · obtain ⟨c, hc, hle⟩ := clockKept_of_performAll his _ (clock_of_exec_now hnow)
    exact hle.trans (le_nextNow hc)
  · obtain ⟨c, hc, hle⟩ := clockKept_of_performAll his _ (clock_of_exec_now hnow)
    have hwaited : s3.env.clock = some (c + n) := by rw [clock_of_exec_delay hdelay, hc]; rfl
    obtain ⟨d, hd, hle'⟩ := clockKept_of_performAll hjs _ hwaited
    calc nextNow s.env + n ≤ c + n := Nat.add_le_add_right hle n
      _ ≤ d := hle'
      _ ≤ nextNow s4.env := le_nextNow hd

end Sys2Proof.Machine
end

section
/-! PROOFS. The statements of 70_reset_and_hazards.md: the state after power-on and its first step (R190, R191), and
the poll loop that its deadline ends (R205). -/

namespace Sys2Proof.Machine

/-! ### Power-on (R190, R191) -/

/-- Settles O1: each element is read off the reset state. -/
theorem resetStateAsSpecified : Obligations.ResetStateAsSpecified :=
  ⟨rfl, rfl, rfl, rfl, rfl, rfl, rfl, rfl, rfl⟩

/-- Settles O2: nothing is placed at reset, so the step is the sequencer's own, at `INIT` 1a. -/
theorem resetBeginsWithTheHardReset : Obligations.ResetBeginsWithTheHardReset :=
  (step_eq_sequencerStep (by decide) rfl).trans rfl

/-! ### The deadline of the poll loop (R122, R205) -/

theorem Res.andThen_congr {r : Res} {f g : State → Res} (h : ∀ t, r = .ok t → f t = g t) :
    r.andThen f = r.andThen g := by
  cases r with
  | ok t => exact h t rfl
  | raised e t => rfl
  | refused q => rfl

/-- Two poll loops agree when the laps that they leave for later agree. Those laps come only when the deadline has
not passed, and they start later, since every lap waits 1 ms. -/
theorem acquireLoop_succ_congr {m n : Nat} {s : State} {x : Nat} (hx : s.env.clock = some x)
    (h : x < tAcqTimeout + s.samples.acqT0 → ∀ (u : State) (y : Nat), u.env.clock = some y → x < y →
      u.samples.acqT0 = s.samples.acqT0 → acquireLoop m u = acquireLoop n u) :
    acquireLoop (m + 1) s = acquireLoop (n + 1) s := by
  simp only [acquireLoop_succ]
  refine Res.andThen_congr fun t ht => Res.andThen_congr fun u hu => ?_
  obtain ⟨rfl, y, hy, hxy, hlt⟩ := acquire6Deadline_early hx rfl ht
  have hearly : x < tAcqTimeout + s.samples.acqT0 := Nat.lt_of_le_of_lt hxy (hlt.trans_eq (Nat.add_comm _ _))
  have hs := acquire6Sample_ok hu
  obtain ⟨z, hz, hyz⟩ : ∃ z : Nat, u.env.clock = some z ∧ y ≤ z := hs.clock y (by simp [hy])
  have hwait : (acquire6Wait u).env.clock = some (z + 1) := by simp [acquire6Wait, hz, tAcqStep]
  have hlater : acquireLoop m (acquire6Wait u) = acquireLoop n (acquire6Wait u) :=
    h hearly _ _ hwait (Nat.lt_succ_of_le (hxy.trans hyz)) hs.acqT0
  rw [hlater]

/-- When the deadline is at most `n` ms away, a lap beyond the first `n + 1` is never begun. -/
theorem acquireLoop_spare_lap (n : Nat) {s : State} {x : Nat} (hx : s.env.clock = some x)
    (hn : tAcqTimeout + s.samples.acqT0 ≤ x + n) : acquireLoop (n + 1 + 1) s = acquireLoop (n + 1) s := by
  induction n generalizing s x with
  | zero => exact acquireLoop_succ_congr hx fun hearly => absurd hn (Nat.not_le.2 hearly)
  | succ n ih =>
    refine acquireLoop_succ_congr hx fun _ u y hy hxy hT0 => ih hy ?_
    rw [hT0]
    exact hn.trans (by omega)

/-- Settles O45: with `acq_t0` in the past the deadline is at most 100 ms away, so each lap allowed beyond 101 is a
spare one. -/
theorem deadlineEndsThePollLoop : Obligations.DeadlineEndsThePollLoop := by
  intro n s c hn hc hpast
  induction n, hn using Nat.le_induction with
  | base => rfl
  | succ n hn ih =>
    obtain ⟨k, rfl⟩ : ∃ k, n = k + 1 := Nat.exists_eq_add_of_le' (Nat.le_trans (by decide) hn)
    have hk : 100 ≤ k := Nat.le_of_succ_le_succ hn
    have henough : tAcqTimeout + s.samples.acqT0 ≤ c + k := (Nat.add_comm _ _).le.trans (Nat.add_le_add hpast hk)
    exact (acquireLoop_spare_lap k hc henough).trans ih

end Sys2Proof.Machine
end

section
/-! PROOFS. The statement of 00_scope.md R7 and 92_eei_decisions.md D18 about `ACQ_IDLE_AFTER`: the parameter adds an
idle write to `ACQUIRE` and nothing else. -/

namespace Sys2Proof.Machine

/-! ### Pieces that do not look at `ACQ_IDLE_AFTER` (R7) -/

/-- `s` with the parameter `ACQ_IDLE_AFTER` set to `b`. -/
def withIdleAfter (b : Bool) (s : State) : State :=
  { s with params := { s.params with acqIdleAfter := b } }

theorem withIdleAfter_self {b : Bool} {s : State} (h : s.params.acqIdleAfter = b) : withIdleAfter b s = s := by
  subst h; rfl

/-- Two results that differ in the parameter only; a raise is the last item of the trace (R165). -/
inductive Res.Alike (b : Bool) : Res → Res → Prop
  | ok (s : State) : Alike b (.ok s) (.ok (withIdleAfter b s))
  | raised (e : Err) (s : State) (hlast : s.trace.getLast? = some (.raised e)) :
    Alike b (.raised e s) (.raised e (withIdleAfter b s))
  | refused (q : Refusal) : Alike b (.refused q) (.refused q)

/-- A piece that does the same whatever the parameter is, and ends with its raise when it raises. -/
def IdleBlind (f : State → Res) : Prop := ∀ b s, (f s).Alike b (f (withIdleAfter b s))

section
variable {b : Bool}

theorem alike_andThen {r r' : Res} {f : State → Res} (h : r.Alike b r') (hf : IdleBlind f) :
    (r.andThen f).Alike b (r'.andThen f) := by
  cases h with
  | ok t => exact hf b t
  | raised e t hlast => exact .raised e t hlast
  | refused q => exact .refused q

theorem alike_raise (e : Err) (s : State) : (raise e s).Alike b (raise e (withIdleAfter b s)) :=
  .raised e _ List.getLast?_concat

theorem alike_ite {c c' : Bool} {r r' q q' : Res} (hc : c' = c) (hr : r.Alike b r') (hq : q.Alike b q') :
    (if c then r else q).Alike b (if c' then r' else q') := by
  subst hc
  cases c' with
  | true => exact hr
  | false => exact hq

theorem alike_xfer (b0 b1 : Byte) (s : State) : (xfer b0 b1 s).Alike b (xfer b0 b1 (withIdleAfter b s)) := by
  refine alike_ite rfl ?_ (.refused _)
  show Res.Alike b (match nextAnswer s.env with | .fail => _ | .ok r0 r1 => _)
    (match nextAnswer s.env with | .fail => _ | .ok r0 r1 => _)
  cases nextAnswer s.env with
  | fail => exact alike_raise _ (xferFailed b0 b1 s)
  | ok r0 r1 => exact .ok (xferDone b0 b1 r0 r1 s)

theorem alike_wr (a v : Byte) (s : State) : (wr a v s).Alike b (wr a v (withIdleAfter b s)) :=
  alike_ite rfl (alike_xfer _ v s) (.refused _)

theorem alike_rd (a : RegIx) (dst : Dest) (s : State) : (rd a dst s).Alike b (rd a dst (withIdleAfter b s)) := by
  refine alike_ite rfl (alike_andThen (alike_xfer _ _ s) fun b t => ?_) (.refused _)
  have hset : setDest dst t.bus.rx1 (withIdleAfter b t) = withIdleAfter b (setDest dst t.bus.rx1 t) := by
    cases dst <;> rfl
  show Res.Alike b _ (.ok (setDest dst t.bus.rx1 (withIdleAfter b t)))
  rw [hset]
  exact .ok _

end

theorem idleBlind_runSteps {fs : List (State → Res)} (h : ∀ f ∈ fs, IdleBlind f) : IdleBlind (runSteps fs) := by
  induction fs with
  | nil => exact fun b s => .ok s
  | cons f fs ih =>
    exact fun b s => alike_andThen (h f List.mem_cons_self b s) (ih fun g hg => h g (List.mem_cons_of_mem f hg))

/-! ### `ACQUIRE` up to its idle write (R119 to R127) -/

theorem idleBlind_acquireTimeout : IdleBlind acquireTimeout := fun _ s =>
  alike_raise .timeout { s with acqState := .timedOut }

theorem idleBlind_acquire6Deadline : IdleBlind acquire6Deadline := fun b s =>
  alike_ite rfl (idleBlind_acquireTimeout b (now .none s)) (.ok (now .none s))

theorem idleBlind_irqGate : IdleBlind irqGate := fun b s =>
  alike_ite rfl (.ok { s with acqState := .received })
    (alike_ite rfl (idleBlind_acquireTimeout b s) (.ok s))

theorem idleBlind_acquire6Sample : IdleBlind acquire6Sample := fun _ s =>
  alike_andThen (alike_rd s.params.chip.comIrq .irqS s) idleBlind_irqGate

theorem idleBlind_acquireLoop (n : Nat) : IdleBlind (acquireLoop n) := by
  induction n with
  | zero => exact idleBlind_acquireTimeout
  | succ n ih =>
    exact fun b s => alike_andThen (idleBlind_acquire6Deadline b s) fun b t =>
      alike_andThen (idleBlind_acquire6Sample b t) fun b u =>
        alike_ite rfl (.ok u) (ih b (acquire6Wait u))

theorem idleBlind_acquireHead : IdleBlind (runSteps acquireHead) := by
  refine idleBlind_runSteps fun f hf b s => ?_
  simp only [acquireHead, List.mem_cons, List.not_mem_nil, or_false] at hf
  rcases hf with rfl | rfl | rfl | rfl | rfl | rfl | rfl | rfl | rfl
  · exact .ok { s with acqState := .idle, samples := { s.samples with acqOk := false } }
  · exact alike_wr _ _ s
  · exact alike_wr _ _ s
  · exact alike_wr _ _ s
  · exact alike_wr _ _ s
  · exact alike_wr _ _ s
  · exact alike_wr _ _ s
  · exact alike_andThen (alike_wr _ _ s) fun _ t => .ok { t with acqState := .sentRequest }
  · exact .ok (now .acqT0 s)

theorem idleBlind_errorGate : IdleBlind errorGate := fun _ s =>
  alike_ite rfl (alike_raise (.frameError s.samples.errS) { s with acqState := .invalid }) (.ok s)

theorem idleBlind_levelGate : IdleBlind levelGate := fun _ s =>
  alike_ite rfl (alike_raise (.shortFrame s.samples.lvlS) { s with acqState := .invalid }) (.ok s)

theorem idleBlind_acquire10 : IdleBlind acquire10 := fun b s => by
  by_cases h : checksum s.answer.uid = s.answer.chkRx
  · rw [acquire10_match h, acquire10_match (s := withIdleAfter b s) h]
    exact .ok _
  · rw [acquire10_mismatch h, acquire10_mismatch (s := withIdleAfter b s) h]
    exact alike_raise _ _

theorem idleBlind_acquireTail : IdleBlind (runSteps acquireTail) := by
  refine idleBlind_runSteps fun f hf b s => ?_
  simp only [acquireTail, List.mem_cons, List.not_mem_nil, or_false] at hf
  rcases hf with rfl | rfl | rfl | rfl | rfl | rfl | rfl | rfl
  · exact alike_andThen (alike_rd _ _ { s with acqState := .validating }) idleBlind_errorGate
  · exact alike_andThen (alike_rd _ _ s) idleBlind_levelGate
  · exact alike_rd _ _ s
  · exact alike_rd _ _ s
  · exact alike_rd _ _ s
  · exact alike_rd _ _ s
  · exact alike_rd _ _ s
  · exact idleBlind_acquire10 b s

theorem idleBlind_acquireBody : IdleBlind acquireBody := fun b s =>
  alike_andThen (idleBlind_acquireHead b s) fun b t =>
    alike_andThen (idleBlind_acquireLoop acquireLaps b t) idleBlind_acquireTail

/-! ### The idle write (D18; log 8) -/

theorem busOpen_of_exec_acquire {s t : State} (h : exec .acquire s = .next t) : s.busOpen = true := by
  by_contra hclosed
  have hrefused := acquireRun_closed (by simpa using hclosed)
  cases hrefused.symm.trans (acquireRun_of_exec h).1

/-- Unless `ACQUIRE` ended by a `TransportError`, the parameter puts the idle write after it. -/
theorem acquireRun_withIdleAfter {s t : State} (hb : s.busOpen = true) (hoff : s.params.acqIdleAfter = false)
    (h : acquireRun s = .ok t) (hlast : ∀ b, t.trace.getLast? ≠ some (.raised (.transportError b))) :
    acquireRun (withIdleAfter true s) = acquireIdle (withIdleAfter true t) := by
  have halike := idleBlind_acquireBody true s
  have hquiet := does_acquireBody hb
  unfold acquireRun at h ⊢
  generalize acquireBody s = r at halike hquiet h
  generalize acquireBody (withIdleAfter true s) = r' at halike
  cases halike with
  | ok u =>
    have hu : u.params.acqIdleAfter = false := by rw [Quiet.params hquiet, hoff]
    obtain rfl : u = t := by simpa [hu] using h
    rfl
  | raised e u hraised =>
    have hu : u.params.acqIdleAfter = false := by rw [hquiet.1.params, hoff]
    obtain rfl : abortAcquire u = t := by simpa [idleFollows, hu] using h
    have hfollows : idleFollows e (withIdleAfter true u) = true := by
      cases e with
      | transportError b => exact absurd hraised (hlast b)
      | transportUnresponsive _ | chipNotDetected _ | frameError _ | shortFrame _ | checksumMismatch _ _ | timeout =>
        rfl
    exact if_pos hfollows
  | refused q => exact hquiet.elim

theorem acquireIdle_answered {s : State} {r0 r1 : Byte} (hb : s.busOpen = true)
    (hn : nextAnswer s.env = .ok r0 r1) : acquireIdle s =
      .ok (xferDone (addrByte s.params.chip.command.toByte false) s.params.chip.cmdIdle r0 r1 s) := by
  rw [acquireIdle, acquire11, wr_ok (legalIndex_toByte _) hb hn]

/-- Settles O43: up to the idle write no piece of `ACQUIRE` looks at the parameter, and the write is answered. -/
theorem acquireIdleAfterAddsOneWrite : Obligations.AcquireIdleAfterAddsOneWrite := by
  intro s t r0 r1 hidle h hlast hanswer
  have hp : s.phase ≠ .halted := phase_of_exec (s := withIdleAfter false s) h
  have hb : s.busOpen = true := busOpen_of_exec_acquire (s := withIdleAfter false s) h
  obtain ⟨hrun, hq⟩ := acquireRun_of_exec h
  have hback : withIdleAfter true (withIdleAfter false s) = s := withIdleAfter_self hidle
  have hparams : withIdleAfter true t = { t with params := s.params } := by
    rw [withIdleAfter, hq.params, ← hidle]
  have hbefore := acquireRun_withIdleAfter (s := withIdleAfter false s) hb rfl hrun hlast
  rw [hback, hparams] at hbefore
  have hwrite := acquireIdle_answered (s := { t with params := s.params }) (hq.busOpen.trans hb) hanswer
  exact perform_ok hp (hbefore.trans hwrite)

end Sys2Proof.Machine
end
